-- ==== Sys2Proof/Word.lean ====
section
/-! DEFINITION. The plain types of the block (`00_scope.md` R6 and section 6): a byte is 8 bits, a
header field 16 bits, a signature 32 bits, and `Bytes` is a finite sequence of bytes. -/

namespace Sys2Proof

/-- A byte, 0 to 255 (`00_scope.md` section 6). -/
abbrev Byte := BitVec 8

/-- `u16` (`00_scope.md` section 6). -/
abbrev U16 := BitVec 16

/-- `u32` (`00_scope.md` section 6). -/
abbrev U32 := BitVec 32

/-- A finite sequence of bytes, first byte of the stream first (`00_scope.md` section 6). -/
abbrev Bytes := List Byte

/-- A transport's own error value: opaque to the block, which hands it on unchanged
(`60_exceptions.md` R197, D30). DESIGN CHOICE (safe): any plain data would do; log 22. -/
abbrev TransportErr := Nat

end Sys2Proof
end

