-- ==== Sys2Proof/Machine/Regs.lean ====
section
/-! DEFINITION. Record types of the wire structures and of the Decoder's working registers
(`30_encoding.md` R70 to R75, `10_state.md` R16 to R22). -/

namespace Sys2Proof

/-- The five fields of the NTH (R71), and the NTH latches (R16). -/
structure Nth where
  sig : U32
  hlen : U16
  seq : U16
  blen : U16
  ndpidx : U16
deriving DecidableEq, Repr, Inhabited

/-- The three fields of the fixed part of the NDP (R72), and their latches (R17). -/
structure Ndpf where
  sig : U32
  lenRaw : U16
  next : U16
deriving DecidableEq, Repr, Inhabited

/-- A datagram entry (R73). -/
structure Entry where
  idx : U16
  len : U16
deriving DecidableEq, Repr, Inhabited

/-- One NTB in its five parts, in wire order (R70, and the notation of R82). -/
structure Ntb where
  nth : Nth
  ndpf : Ndpf
  entries : List Entry
  pad : Byte × Byte
  payload : Bytes
deriving DecidableEq, Repr, Inhabited

/-- The Decoder's working registers (`10_state.md` R16 to R22). `slices` and `cursor` are the model's
own: the local list of S8 that the release reads (R147, R148) and the loop index of the traversal
(R114); log 10. -/
structure DecWork where
  nth : Nth
  ndp : Ndpf
  ndpLen : U16
  nEnt : Nat
  ent : List Entry
  pad : Byte × Byte
  thl : Nat
  plen : Nat
  payload : Bytes
  stage : Bytes
  slices : List Bytes
  cursor : Nat
deriving DecidableEq, Repr, Inhabited

/-- The six error kinds, with the value `TransportError` carries (`60_exceptions.md` R190, R191). -/
inductive ErrorKind where
  | malformedHeader
  | malformedDatagramPointer
  | truncatedTransfer
  | inconsistentLength
  | corruptFrame
  | transportError (e : TransportErr)
deriving DecidableEq, Repr

/-- What the inbound transport decides about one `RxRead` (R41). `serve`: answer from the stream;
`short k`: at most `k` bytes, fewer than asked; `fail e`: failed or cancelled; `wait`: no answer yet
(R63). Log 8. -/
inductive RxVerdict where
  | serve
  | short (k : Nat)
  | fail (e : TransportErr)
  | wait
deriving DecidableEq, Repr

/-- The inbound transport (R40 row RX, R41): the bytes the peer sent that are not yet consumed,
whether the peer sends no more after them, and the decisions about the coming calls (none listed:
`serve`). Log 8. -/
structure RxLine where
  stream : Bytes
  ended : Bool
  verdicts : List RxVerdict
deriving DecidableEq, Repr

/-- What the outbound transport decides about one `TxWrite` (R43, R63). -/
inductive TxVerdict where
  | done
  | fail (e : TransportErr)
  | wait
deriving DecidableEq, Repr

/-- The outbound transport (R40 row TX, R43): the bytes that have reached the peer, and the decisions
about the coming calls (none listed: it has not answered). Log 8. -/
structure TxLine where
  sent : Bytes
  verdicts : List TxVerdict
deriving DecidableEq, Repr

end Sys2Proof
end

