-- ==== Sys2Proof/Config.lean ====
section
/-! DEFINITION. What an implementation fixes (`00_scope.md` R5) and the free values: constants with no
body, of which nothing can be proved. -/

namespace Sys2Proof

/-- The implementation parameters (`00_scope.md` R5). -/
structure Cfg where
  nthSig : U32
  ndpSig : U32
  /-- `cfg.QUIRKS`: pairs (match, replacement). -/
  quirks : List (U16 × U16)
  seqInit : U16
  /-- `cfg.Q_CAPACITY`; `none` is unbounded. -/
  qCapacity : Option Nat
deriving DecidableEq, Repr

/-- The values R5 gives for this hardware. UNVERIFIED (unsafe): the two signature numbers are the
spec's own from general knowledge (`93_implementation_defined.md` G1); log 1. -/
def Cfg.standard : Cfg where
  nthSig := 0x484D434E
  ndpSig := 0x304D434E
  quirks := [(0x008C, 0x003C)]
  seqInit := 0
  qCapacity := none

namespace Config

/-- `NTH_LEN` (R5). -/
def nthLen : Nat := 12
/-- `NDPF_LEN` (R5). -/
def ndpfLen : Nat := 8
/-- `ENTRY_LEN` (R5). -/
def entryLen : Nat := 4
/-- `PAD_LEN` (R5). -/
def padLen : Nat := 2
/-- `ENC_NDP_LEN` (R5). -/
def encNdpLen : Nat := 16
/-- `ENC_OVERHEAD` (R5): `12 + 16 + 2`. -/
def encOverhead : Nat := 30
/-- `MAX_FRAME` (R5): `65535 - 30`. -/
def maxFrame : Nat := 65505

/-- Free value: how many bytes an `RxRead` that failed had consumed (U6); drawn by the Decoder's
counter. DESIGN CHOICE (safe); log 4. -/
opaque rxFailConsumed : Nat → Nat

/-- Free value: how much of the buffer reached the peer in a `TxWrite` that failed (U7); drawn by the
Encoder's counter. DESIGN CHOICE (safe); log 5. -/
opaque txFailDelivered : Nat → Nat

/-- Free value: the Decoder's working registers outside the operation that wrote them (U2). DESIGN
CHOICE (safe); log 3. -/
opaque deadWork : Nat → DecWork

/-- Free value: the Encoder's assembly buffer outside the operation that wrote it (U2). DESIGN CHOICE
(safe); log 3. -/
opaque deadTxbuf : Nat → Bytes

end Config

end Sys2Proof
end

