-- ==== Sys2Proof/Syntax.lean ====
section
/-! DEFINITION. The instructions: one constructor per row of `spec/opcode_table.json` (`30_encoding.md`
R83): wire structures, operations, steps and functions. -/

namespace Sys2Proof

/-- The direction a RESET creates, with the fresh transport it binds the instance to
(`70_reset_and_hazards.md` R230, R231). -/
inductive ResetTarget where
  | dec (rx : RxLine)
  | enc (verdicts : List TxVerdict)
deriving DecidableEq, Repr

/-- The rows of the opcode table. -/
inductive Instr where
  -- wire structures (R71 to R75, R79, R81)
  | nth (h : Nth)
  | ndpf (p : Ndpf)
  | entryTerm
  | entryZlen (idx : U16)
  | entryLive (idx len : U16)
  | pad (b0 b1 : Byte)
  | payload (bytes : Bytes)
  | ntb1 (seq blen elen : U16)
  -- operations and steps of the Decoder (R131, R134, R140 to R149)
  | decRead (max : Nat)
  | decNtb
  | decS1
  | decS2
  | decS3
  | decS4
  | decS5
  | decS6
  | decS7
  | decS8
  | decRelease
  | decS9
  -- operations of the Encoder and of the system (R170, R230)
  | encWrite (frame : Bytes)
  | reset (target : ResetTarget) (cfg : Cfg)
  -- functions of the shared traversal unit (R101 to R115)
  | parseNTH (b : Bytes)
  | serNTH (h : Nth)
  | parseNDPF (b : Bytes)
  | serNDPF (p : Ndpf)
  | parseEntries (t : Bytes)
  | serEntries (es : List Entry)
  | normalise (cfg : Cfg) (v : U16)
  | entryCount (ndplen : U16)
  | lengths (hlen ndplen blen : U16) (es : List Entry)
  | isSkipped (e : Entry)
  | translate (e : Entry) (thl plen : Nat)
  | extract (es : List Entry) (thl plen : Nat) (payload : Bytes)
  | ntb1Build (cfg : Cfg) (s : U16) (frame : Bytes)
deriving DecidableEq, Repr

end Sys2Proof
end

