-- ==== Sys2Proof/WellFormed.lean ====
section
/-! DEFINITION. The operands each instruction admits: the classes of R79, the form of R81, the domains
the rules R101 to R115 and R170 state for their inputs, and the bounds of R20, R21. -/

namespace Sys2Proof

/-- The instruction's operands are ones the spec gives it. -/
def Instr.wf : Instr → Bool
  | .nth _ => true
  | .ndpf _ => true
  | .entryTerm => true
  | .entryZlen idx => idx != 0
  | .entryLive _ len => len != 0
  | .pad _ _ => true
  | .payload bytes => bytes.length ≤ 65525
  | .ntb1 _ blen elen => blen.toNat == elen.toNat + Config.encOverhead
  | .decRead _ => true
  | .decNtb => true
  | .decS1 => true
  | .decS2 => true
  | .decS3 => true
  | .decS4 => true
  | .decS5 => true
  | .decS6 => true
  | .decS7 => true
  | .decS8 => true
  | .decRelease => true
  | .decS9 => true
  | .encWrite frame => frame.length ≤ Config.maxFrame
  | .reset _ _ => true
  | .parseNTH b => b.length == Config.nthLen
  | .serNTH _ => true
  | .parseNDPF b => b.length == Config.ndpfLen
  | .serNDPF _ => true
  | .parseEntries t => t.length % Config.entryLen == 0
  | .serEntries _ => true
  | .normalise _ _ => true
  | .entryCount _ => true
  | .lengths _ _ _ _ => true
  | .isSkipped _ => true
  | .translate e _ _ => e.len != 0
  | .extract _ _ plen pay => pay.length == plen
  | .ntb1Build _ _ frame => frame.length ≤ Config.maxFrame

end Sys2Proof
end

