-- ==== Sys2Proof/Decode.lean ====
section
/-! DEFINITION. The wire format: byte order (`20_memory.md` R50), unpacking and packing of the structures
(`40_shared_traversal.md` R101 to R104), the decoder of the structures by position (`30_encoding.md`
R78, R79) and, after it, the encoder. -/

namespace Sys2Proof

/-! ### Byte order (R50, `00_scope.md` section 6) -/

/-- `LE16`: `b[0] + 256*b[1]`. -/
def le16Of (b0 b1 : Byte) : U16 := BitVec.ofNat 16 (b0.toNat + 256 * b1.toNat)

/-- `LE32`: `b[0] + 256*b[1] + 65536*b[2] + 16777216*b[3]`. -/
def le32Of (b0 b1 b2 b3 : Byte) : U32 :=
  BitVec.ofNat 32 (b0.toNat + 256 * b1.toNat + 65536 * b2.toNat + 16777216 * b3.toNat)

/-- `le16`: the two bytes, least significant first. -/
def le16 (v : U16) : Bytes := [BitVec.ofNat 8 v.toNat, BitVec.ofNat 8 (v.toNat / 256)]

/-- `le32`: the four bytes, least significant first. -/
def le32 (v : U32) : Bytes :=
  [BitVec.ofNat 8 v.toNat, BitVec.ofNat 8 (v.toNat / 256), BitVec.ofNat 8 (v.toNat / 65536),
    BitVec.ofNat 8 (v.toNat / 16777216)]

/-- `LE16(b[i : i+2])`. Only used where `i + 2 <= len(b)`. -/
def u16At (b : Bytes) (i : Nat) : U16 := le16Of (b.getD i 0) (b.getD (i + 1) 0)

/-- `LE32(b[i : i+4])`. Only used where `i + 4 <= len(b)`. -/
def u32At (b : Bytes) (i : Nat) : U32 :=
  le32Of (b.getD i 0) (b.getD (i + 1) 0) (b.getD (i + 2) 0) (b.getD (i + 3) 0)

/-- `zeros(n)` (`00_scope.md` section 6). -/
def zeros (n : Nat) : Bytes := List.replicate n 0

/-! ### Unpacking and packing (R101 to R104) -/

/-- `ParseNTH(b)` (R101), on the 12 bytes of `b`. -/
def parseNTH (b : Bytes) : Nth where
  sig := u32At b 0
  hlen := u16At b 4
  seq := u16At b 6
  blen := u16At b 8
  ndpidx := u16At b 10

/-- `SerNTH(h)` (R102). -/
def serNTH (h : Nth) : Bytes :=
  le32 h.sig ++ le16 h.hlen ++ le16 h.seq ++ le16 h.blen ++ le16 h.ndpidx

/-- `ParseNDPF(b)` (R103), on the 8 bytes of `b`. -/
def parseNDPF (b : Bytes) : Ndpf where
  sig := u32At b 0
  lenRaw := u16At b 4
  next := u16At b 6

/-- `SerNDPF(p)` (R103). -/
def serNDPF (p : Ndpf) : Bytes := le32 p.sig ++ le16 p.lenRaw ++ le16 p.next

/-- The entry in 4 bytes (R73). -/
def parseEntry (b : Bytes) : Entry where
  idx := u16At b 0
  len := u16At b 2

/-- The 4 bytes of one entry (R73, R104). -/
def serEntry (e : Entry) : Bytes := le16 e.idx ++ le16 e.len

/-- `ParseEntries(t)` (R104): element `i` of the list is entry `i` on the wire. -/
def parseEntries : Bytes → List Entry
  | b0 :: b1 :: b2 :: b3 :: t => parseEntry [b0, b1, b2, b3] :: parseEntries t
  | _ => []

/-- `SerEntries(es)` (R104). -/
def serEntries : List Entry → Bytes
  | [] => []
  | e :: es => serEntry e ++ serEntries es

/-- An NTB on the wire: its five parts in order with nothing between them (R70). -/
def serNtb (n : Ntb) : Bytes :=
  serNTH n.nth ++ serNDPF n.ndpf ++ serEntries n.entries ++ [n.pad.1, n.pad.2] ++ n.payload

/-- The first 30 bytes of the form the Encoder emits, with its three variable fields (R81). -/
def ntb1Head (cfg : Cfg) (seq blen elen : U16) : Bytes :=
  serNTH ⟨cfg.nthSig, 12, seq, blen, 12⟩ ++ serNDPF ⟨cfg.ndpSig, 16, 0⟩
    ++ serEntries [⟨30, elen⟩, ⟨0, 0⟩] ++ zeros Config.padLen

/-! ### Decoding by position (R77, R78) -/

/-- Where in the stream a structure stands; its position alone says which structure it is (R78). -/
inductive Pos where
  | nth
  | ndpf
  | entry
  | pad
  | payload (n : Nat)
  | ntb1
deriving DecidableEq, Repr

/-- How many bytes the structure at a position has (R71 to R75, R81). -/
def Pos.size : Pos → Nat
  | .nth => Config.nthLen
  | .ndpf => Config.ndpfLen
  | .entry => Config.entryLen
  | .pad => Config.padLen
  | .payload n => n
  | .ntb1 => Config.encOverhead

/-- Why bytes hold no structure. -/
inductive DecodeError where
  /-- Fewer bytes than the structure at that position has. -/
  | tooFewBytes (pos : Pos)
  /-- The 30 bytes are not of the one form the Encoder emits (R81). -/
  | notTheEmittedForm
deriving DecidableEq, Repr

/-- The class of an entry, decided by its `Length` first (R79). -/
def classify (e : Entry) : Instr :=
  if e.len = 0 then
    if e.idx = 0 then .entryTerm else .entryZlen e.idx
  else .entryLive e.idx e.len

/-- The fixed bytes of the form the Encoder emits (R81, and the mask of the row NTB1 of the table).
DESIGN CHOICE (unsafe): `BlockLength` and the entry's `Length` are left free, as the mask leaves them,
and are not held against each other; log 28. -/
def isNtb1Head (cfg : Cfg) (b : Bytes) : Bool :=
  u32At b 0 == cfg.nthSig && u16At b 4 == 12 && u16At b 10 == 12 && u32At b 12 == cfg.ndpSig
    && u16At b 16 == 16 && u16At b 18 == 0 && u16At b 20 == 30 && u32At b 24 == 0 && u16At b 28 == 0

/-- The instruction in exactly `pos.size` bytes. -/
def decodeAt (cfg : Cfg) (b : Bytes) : Pos → Except DecodeError Instr
  | .nth => .ok (.nth (parseNTH b))
  | .ndpf => .ok (.ndpf (parseNDPF b))
  | .entry => .ok (classify (parseEntry b))
  | .pad => .ok (.pad (b.getD 0 0) (b.getD 1 0))
  | .payload _ => .ok (.payload b)
  | .ntb1 =>
    if isNtb1Head cfg b then .ok (.ntb1 (u16At b 6) (u16At b 8) (u16At b 22))
    else .error .notTheEmittedForm

/-- The structure at a position, and the bytes after it. Total on any bytes. -/
def decode (cfg : Cfg) (pos : Pos) (bs : Bytes) : Except DecodeError (Instr × Bytes) :=
  if bs.length < pos.size then .error (.tooFewBytes pos)
  else
    match decodeAt cfg (bs.take pos.size) pos with
    | .ok i => .ok (i, bs.drop pos.size)
    | .error e => .error e

/-! ### Encoding (R71 to R75, R81) -/

/-- Where an instruction stands on the wire; operations, steps and functions have no bit encoding
(R84). -/
def posOf : Instr → Option Pos
  | .nth _ => some .nth
  | .ndpf _ => some .ndpf
  | .entryTerm => some .entry
  | .entryZlen _ => some .entry
  | .entryLive _ _ => some .entry
  | .pad _ _ => some .pad
  | .payload bytes => some (.payload bytes.length)
  | .ntb1 _ _ _ => some .ntb1
  | .decRead _ => none
  | .decNtb => none
  | .decS1 => none
  | .decS2 => none
  | .decS3 => none
  | .decS4 => none
  | .decS5 => none
  | .decS6 => none
  | .decS7 => none
  | .decS8 => none
  | .decRelease => none
  | .decS9 => none
  | .encWrite _ => none
  | .reset _ _ => none
  | .parseNTH _ => none
  | .serNTH _ => none
  | .parseNDPF _ => none
  | .serNDPF _ => none
  | .parseEntries _ => none
  | .serEntries _ => none
  | .normalise _ _ => none
  | .entryCount _ => none
  | .lengths _ _ _ _ => none
  | .isSkipped _ => none
  | .translate _ _ _ => none
  | .extract _ _ _ _ => none
  | .ntb1Build _ _ _ => none

/-- The bytes of an instruction that stands on the wire; none for an instruction that has no bit
encoding (R84). -/
def encode (cfg : Cfg) : Instr → Option Bytes
  | .nth h => some (serNTH h)
  | .ndpf p => some (serNDPF p)
  | .entryTerm => some (serEntry ⟨0, 0⟩)
  | .entryZlen idx => some (serEntry ⟨idx, 0⟩)
  | .entryLive idx len => some (serEntry ⟨idx, len⟩)
  | .pad b0 b1 => some [b0, b1]
  | .payload bytes => some bytes
  | .ntb1 seq blen elen => some (ntb1Head cfg seq blen elen)
  | .decRead _ => none
  | .decNtb => none
  | .decS1 => none
  | .decS2 => none
  | .decS3 => none
  | .decS4 => none
  | .decS5 => none
  | .decS6 => none
  | .decS7 => none
  | .decS8 => none
  | .decRelease => none
  | .decS9 => none
  | .encWrite _ => none
  | .reset _ _ => none
  | .parseNTH _ => none
  | .serNTH _ => none
  | .parseNDPF _ => none
  | .serNDPF _ => none
  | .parseEntries _ => none
  | .serEntries _ => none
  | .normalise _ _ => none
  | .entryCount _ => none
  | .lengths _ _ _ _ => none
  | .isSkipped _ => none
  | .translate _ _ _ => none
  | .extract _ _ _ _ => none
  | .ntb1Build _ _ _ => none

/-! ### The opcode table's words -/

/-- The first `n` bytes of the table's number `w`: byte `k` is `W[8k+7:8k]` (R83). -/
def wordBytes (n w : Nat) : Bytes := (List.range n).map fun k => BitVec.ofNat 8 (w / 256 ^ k)

/-- The position of the row a table word belongs to, told from its width; a 32-bit word that is one of
the two signatures is the fixed part of NTH or NDPF. DESIGN CHOICE (safe): recognition is by position
(R78) and a bare word has none; log 17. -/
def tablePos (nbits w : Nat) : Pos :=
  if nbits = 96 then .nth
  else if nbits = 64 then .ndpf
  else if nbits = 240 then .ntb1
  else if nbits = 16 then .pad
  else if nbits = 32 then
    if w = Cfg.standard.nthSig.toNat then .nth
    else if w = Cfg.standard.ndpSig.toNat then .ndpf
    else .entry
  else .payload (nbits / 8)

/-- The bytes of a table word, as long as the structure of its row. -/
def tableBytes (nbits w : Nat) : Bytes := wordBytes (tablePos nbits w).size w

/-- The instruction the decoder reads from a table word; none where it refuses. A row without bits (an
operation, a step, a function) has no word (R84). -/
def decodeTableWord (nbits w : Nat) : Option Instr :=
  if nbits = 0 then none
  else
  match decode Cfg.standard (tablePos nbits w) (tableBytes nbits w) with
  | .ok (i, _) => some i
  | .error _ => none

end Sys2Proof
end

