-- ==== Sys2Proof/Machine/State.lean ====
section
/-! DEFINITION. The state of the block (`10_state.md`), of its surroundings as far as a step reads them
(R11), the reasons a step can stop, and the machine right after RESET (R31). -/

namespace Sys2Proof.Machine

/-- Why the machine stops. The six error kinds of the spec are no faults: they are taken as next states
(`60_exceptions.md` R200). -/
inductive Fault where
  /-- Raised by a read of the payload buffer outside the bytes it holds (`20_memory.md` R40, R47: the
  addresses are 0 to `plen - 1`). No state that steps reach raises it. Safe; log 21. -/
  | payloadOutOfRange
deriving DecidableEq, Repr

/-- Why an instruction is refused. -/
inductive Refusal where
  /-- Raised by `exec` for an instruction that has no meaning yet. Safe. -/
  | notModelled (mnemonic : String)
  /-- Raised by DEC.READ and ENC.WRITE while an operation of that direction is outstanding (U9, R240).
  Safe; log 20. -/
  | requestWhileBusy
  /-- Raised by RESET of a direction while one of its operations is outstanding (U8, R231). Safe;
  log 20. -/
  | resetWhileBusy
  /-- Raised by ENC.WRITE and NTB1.build for a frame of more than 65505 bytes (U1, R170). Safe; log 20. -/
  | frameTooLong
  /-- Raised by the release of more bytes than a finite `cfg.Q_CAPACITY` leaves room for (U3, R148).
  Safe; log 19. -/
  | queueOverflow
  /-- Raised where an operand's length is not the one the rule states for its input (R101, R103, R104,
  R114, R75). Safe; log 14. -/
  | outsideDomain
  /-- Raised by a step of the Encoder that is blocked in `TxWrite` over bytes in which a fixed
  byte of the form it emits is another one (R81, R173; log 28). No state that steps reach raises it. Safe; log 16. -/
  | notTheEmittedForm
deriving DecidableEq, Repr

/-- `dec.fault` (`10_state.md` R13). -/
inductive DecFault where
  | none
  | malformedHeader
  | malformedDatagramPointer
  | truncatedTransfer
  | inconsistentLength
  | corruptFrame
  | transportError
deriving DecidableEq, Repr

/-- `enc.fault` (`10_state.md` R25). -/
inductive EncFault where
  | none
  | transportError
deriving DecidableEq, Repr

/-- `dec.phase` (`10_state.md` R14). -/
inductive Phase where
  | idle
  | s1Nth
  | s2Ndpf
  | s3Norm
  | s4Ent
  | s5Pad
  | s6Len
  | s7Pay
  | s8Extract
  | s9Serve
deriving DecidableEq, Repr

/-- Whether the Encoder is blocked in `TxWrite` (`20_memory.md` R43, R63); log 10. -/
inductive EncPhase where
  | idle
  | writing
deriving DecidableEq, Repr

/-- The two agents (`00_scope.md` R2). -/
inductive Agent where
  | dec
  | enc
deriving DecidableEq, Repr

/-- What the Decoder's caller asks for (`20_memory.md` R44, `60_exceptions.md` R216). -/
inductive DecReq where
  | read (max : Nat)
  | reset (cfg : Cfg) (rx : RxLine)
deriving DecidableEq, Repr

/-- What the Encoder's caller asks for (`20_memory.md` R44, `60_exceptions.md` R216). -/
inductive EncReq where
  | write (frame : Bytes)
  | reset (cfg : Cfg) (verdicts : List TxVerdict)
deriving DecidableEq, Repr

/-- The result of one DEC.READ (R131). -/
inductive DecAnswer where
  | ok (out : Bytes)
  | err (k : ErrorKind)
deriving DecidableEq, Repr

/-- The result of one ENC.WRITE (R170): `Ok`, or `Err(TransportError(e))`. -/
inductive EncAnswer where
  | ok
  | err (e : TransportErr)
deriving DecidableEq, Repr

/-- What a function of the shared traversal unit returned (the `result` of its table row); log 13. -/
inductive UnitResult where
  | nothing
  | nth (h : Nth)
  | ndpf (p : Ndpf)
  | entries (es : List Entry)
  | bytes (b : Bytes)
  | u16 (v : U16)
  | nat (n : Nat)
  | lengths (thl plen : Nat)
  | bool (b : Bool)
  | slices (l : List Bytes)
  | raised (k : ErrorKind)
deriving DecidableEq, Repr

/-- The Decoder (`10_state.md` R12 to R23), its caller and its transport. -/
structure DecState where
  cfg : Cfg
  q : Bytes
  fault : DecFault
  phase : Phase
  rxCount : Nat
  framesLog : List Bytes
  work : DecWork
  /-- The outstanding DEC.READ's `max`; log 10. -/
  pend : Option Nat
  /-- The results returned since reset, oldest first; log 7. -/
  answers : List DecAnswer
  /-- The requests the caller will issue, next first; log 7. -/
  reqs : List DecReq
  rx : RxLine
  /-- How many free values have been drawn; log 3. -/
  draws : Nat
deriving DecidableEq, Repr

/-- The Encoder (`10_state.md` R24 to R27), its caller and its transport. -/
structure EncState where
  cfg : Cfg
  seq : U16
  fault : EncFault
  phase : EncPhase
  txbuf : Bytes
  txLog : List Bytes
  /-- The results returned since reset, oldest first; log 7. -/
  answers : List EncAnswer
  /-- The requests the caller will issue, next first; log 7. -/
  reqs : List EncReq
  tx : TxLine
  /-- How many free values have been drawn; log 3. -/
  draws : Nat
deriving DecidableEq, Repr

/-- The whole machine. -/
structure State where
  dec : DecState
  enc : EncState
  /-- Which agent moves at the coming steps (R11, R213); log 6. -/
  sched : List Agent
  /-- What the shared traversal unit last returned to a caller of its functions; log 13. -/
  unit : UnitResult
deriving DecidableEq, Repr

/-- The working registers at `State.reset`. DESIGN CHOICE (unsafe): the spec gives no value (R31); log 2. -/
def zeroWork : DecWork where
  nth := ⟨0, 0, 0, 0, 0⟩
  ndp := ⟨0, 0, 0⟩
  ndpLen := 0
  nEnt := 0
  ent := []
  pad := (0, 0)
  thl := 0
  plen := 0
  payload := []
  stage := []
  slices := []
  cursor := 0

/-- A Decoder just created (R31), before its caller and its transport do anything (log 26). -/
def DecState.reset : DecState where
  cfg := Cfg.standard
  q := []
  fault := .none
  phase := .idle
  rxCount := 0
  framesLog := []
  work := zeroWork
  pend := none
  answers := []
  reqs := []
  rx := ⟨[], false, []⟩
  draws := 0

/-- An Encoder just created (R31), before its caller and its transport do anything (log 26). -/
def EncState.reset : EncState where
  cfg := Cfg.standard
  seq := Cfg.standard.seqInit
  fault := .none
  phase := .idle
  txbuf := []
  txLog := []
  answers := []
  reqs := []
  tx := ⟨[], []⟩
  draws := 0

/-- The machine right after RESET of both directions (R31, R230). -/
def State.reset : State where
  dec := DecState.reset
  enc := EncState.reset
  sched := []
  unit := .nothing

/-- `dec.qlen`: always `len(dec.q)` (`10_state.md` R28). -/
def DecState.qlen (d : DecState) : Nat := d.q.length

end Sys2Proof.Machine
end

