-- ==== Sys2Proof/Machine/Flags.lean ====
section
/-! DEFINITION. The flags of the block: the sticky fault status of each direction (`10_state.md` R13, R25)
and the numeric codes (`60_exceptions.md` R191). -/

namespace Sys2Proof.Machine

/-- The status an error kind is recorded as: the kind without the value it carries (R13, R191). -/
def statusOf : ErrorKind → DecFault
  | .malformedHeader => .malformedHeader
  | .malformedDatagramPointer => .malformedDatagramPointer
  | .truncatedTransfer => .truncatedTransfer
  | .inconsistentLength => .inconsistentLength
  | .corruptFrame => .corruptFrame
  | .transportError _ => .transportError

/-- The Decoder's sticky status after `raise k` (R13, R200). -/
def stickDec (f : DecFault) (k : ErrorKind) : DecFault :=
  match f with
  | .none => statusOf k
  | f => f

/-- The Encoder's sticky status after a raise; it can raise `TransportError` only (R25, R191). -/
def stickEnc (f : EncFault) : EncFault :=
  match f with
  | .none => .transportError
  | f => f

/-- The numeric code of `dec.fault` (R191). -/
def decFaultCode : DecFault → Nat
  | .none => 0
  | .malformedHeader => 1
  | .malformedDatagramPointer => 2
  | .truncatedTransfer => 3
  | .inconsistentLength => 4
  | .corruptFrame => 5
  | .transportError => 6

/-- The numeric code of `enc.fault` (R28, R191). -/
def encFaultCode : EncFault → Nat
  | .none => 0
  | .transportError => 6

end Sys2Proof.Machine
end

