-- ==== Sys2Proof/Machine/Operands.lean ====
section
/-! DEFINITION. The pure functions of the shared traversal unit (`40_shared_traversal.md` R105 to R116):
quirk normalisation, length arithmetic, entry classes, translation, extraction, and the NTB the Encoder
builds. Packing and unpacking (R101 to R104) are in `Sys2Proof/Decode.lean`. -/

namespace Sys2Proof.Machine

/-- The first pair of the list that matches wins, and its replacement is not looked up again (R105). -/
def normaliseBy : List (U16 × U16) → U16 → U16
  | [], v => v
  | (m, r) :: rest, v => if v = m then r else normaliseBy rest v

/-- `Normalise(cfg, v)` (R105). -/
def normalise (cfg : Cfg) (v : U16) : U16 := normaliseBy cfg.quirks v

/-- `EntryCount(ndplen)` (R106). -/
def entryCount (ndplen : U16) : Except ErrorKind Nat :=
  if ndplen.toNat < 8 then .error .inconsistentLength
  else if (ndplen.toNat - 8) % 4 ≠ 0 then .error .inconsistentLength
  else .ok ((ndplen.toNat - 8) / 4)

/-- `IsSkipped(e)` (R111). -/
def isSkipped (e : Entry) : Bool := e.len == 0

/-- Some entry of the table is live (R107, glossary "live entry"). -/
def hasLive (es : List Entry) : Bool := es.any fun e => !isSkipped e

/-- `Lengths(hlen, ndplen, blen, es)`: `(thl, plen)`, computed exactly (R107, R110). -/
def lengths (hlen ndplen blen : U16) (es : List Entry) : Except ErrorKind (Nat × Nat) :=
  let thl := hlen.toNat + ndplen.toNat + 2
  if blen.toNat < thl then .error .inconsistentLength
  else if blen.toNat - thl = 0 ∧ hasLive es = true then .error .inconsistentLength
  else .ok (thl, blen.toNat - thl)

/-- `Translate(e, thl, plen)`: the payload-relative offset, computed in integers (R112, R47). -/
def translate (e : Entry) (thl plen : Nat) : Except ErrorKind Nat :=
  let off : Int := (e.idx.toNat : Int) - (thl : Int)
  if off < 0 then .error .corruptFrame
  else if off + (e.len.toNat : Int) > (plen : Int) then .error .corruptFrame
  else .ok off.toNat

/-- `b[off : off+n]` (`00_scope.md` section 6). -/
def slice (b : Bytes) (off n : Nat) : Bytes := (b.drop off).take n

/-- `Extract(es, thl, plen, payload)`: the slices of the live entries in table order, or `CorruptFrame`
for the first one out of bounds (R114). -/
def extract : List Entry → Nat → Nat → Bytes → Except ErrorKind (List Bytes)
  | [], _, _, _ => .ok []
  | e :: es, thl, plen, payload =>
    if isSkipped e then extract es thl plen payload
    else
      match translate e thl plen with
      | .error k => .error k
      | .ok off =>
        match extract es thl plen payload with
        | .error k => .error k
        | .ok rest => .ok (slice payload off e.len.toNat :: rest)

/-- The single-datagram NTB in its five parts (R81, R82, R115). -/
def ntb1Form (cfg : Cfg) (s : U16) (frame : Bytes) : Ntb where
  nth := ⟨cfg.nthSig, 12, s, BitVec.ofNat 16 (frame.length + 30), 12⟩
  ndpf := ⟨cfg.ndpSig, 16, 0⟩
  entries := [⟨30, BitVec.ofNat 16 frame.length⟩, ⟨0, 0⟩]
  pad := (0, 0)
  payload := frame

/-- `NTB1(cfg, s, F)` (R115), for `len(F) <= 65505`. -/
def ntb1 (cfg : Cfg) (s : U16) (frame : Bytes) : Bytes :=
  ntb1Head cfg s (BitVec.ofNat 16 (frame.length + 30)) (BitVec.ofNat 16 frame.length) ++ frame

/-- Some entry is the terminator and no live entry comes after the first one (R116 clause 9). -/
def terminated : List Entry → Bool
  | [] => false
  | e :: es => if e.idx = 0 ∧ e.len = 0 then !hasLive es else terminated es

/-- Every live entry passes R112 (R116 clause 11). -/
def allInBounds (es : List Entry) (thl plen : Nat) : Bool :=
  es.all fun e => isSkipped e || (translate e thl plen).isOk

/-- `WellFormedNTB(cfg, b)` (R116), clause by clause. -/
def wellFormedNTB (cfg : Cfg) (b : Bytes) : Bool :=
  let h := parseNTH (slice b 0 12)
  let p := parseNDPF (slice b 12 8)
  let n := (normalise cfg p.lenRaw).toNat
  let es := parseEntries (slice b 20 (n - 8))
  let thl := 14 + n
  let plen := b.length - thl
  decide (22 ≤ b.length) && h.sig == cfg.nthSig && h.hlen == 12 && h.ndpidx == 12
    && h.blen.toNat == b.length && p.sig == cfg.ndpSig && p.next == 0
    && decide (12 ≤ n ∧ (n - 8) % 4 = 0 ∧ 14 + n ≤ b.length)
    && terminated es && slice b (12 + n) 2 == [0, 0]
    && allInBounds es thl plen && !(plen == 0 && hasLive es)

end Sys2Proof.Machine
end

