-- ==== Sys2Proof/Machine/Ops.lean ====
section
/-! DEFINITION. The operations the meanings share: the transports' primitives (`20_memory.md` R41, R43),
the queue's (R49), the payload buffer's (R47), and taking an error, one operation per direction
(`60_exceptions.md` R200). There is no return from an error (R203). -/

namespace Sys2Proof.Machine

/-! ### Taking an error, and the end of an operation -/

/-- The working registers once their operation has ended: unspecified (`10_state.md` R10, U2), so free
values. DESIGN CHOICE (safe); log 3. -/
def DecState.retire (d : DecState) : DecState :=
  { d with work := Config.deadWork d.draws, draws := d.draws + 1 }

/-- The caller of the outstanding DEC.READ, if one is outstanding, gets its result. -/
def DecState.answer (d : DecState) (a : DecAnswer) : DecState :=
  match d.pend with
  | none => d
  | some _ => { d with answers := d.answers ++ [a], pend := none }

/-- `raise K` in an operation of the Decoder (R200): the stage is discarded, the queue, the log and the
cursor stay, the status sticks, the phase is IDLE, and the caller gets `Err(K)`; log 24. -/
def DecState.raise (k : ErrorKind) (d : DecState) : DecState :=
  let d := d.retire.answer (.err k)
  { d with
    fault := stickDec d.fault k
    phase := .idle
    work := { d.work with stage := [], slices := [] } }

/-- The assembly buffer once its operation has ended: unspecified (R26, U2), so a free value. DESIGN
CHOICE (safe); log 3. -/
def EncState.retire (e : EncState) : EncState :=
  { e with txbuf := Config.deadTxbuf e.draws, draws := e.draws + 1 }

/-- `raise TransportError(err)` in an operation of the Encoder (R200): the status sticks, the counter
and the log stay, and the caller gets `Err(TransportError(err))`. -/
def EncState.raise (err : TransportErr) (e : EncState) : EncState :=
  { e.retire with
    fault := stickEnc e.fault
    phase := .idle
    answers := e.answers ++ [.err err] }

/-! ### The inbound transport -/

/-- What one `RxRead` came to (R41), or that the transport has not answered (R63). -/
inductive RxOutcome where
  | full (b : Bytes)
  | short (b : Bytes)
  | fail (e : TransportErr)
  | hold
deriving DecidableEq, Repr

/-- `n` bytes are consumed by an answered call: the stream and the cursor advance (R15, R41, R54). -/
def DecState.rxAdvance (n : Nat) (d : DecState) : DecState :=
  { d with
    rx := { d.rx with stream := d.rx.stream.drop n, verdicts := d.rx.verdicts.tail }
    rxCount := d.rxCount + n }

/-- A call answered from the stream: all `n` bytes if they are there, all that is left if the stream
has ended, and no answer as long as more bytes may come (R41, R152). -/
def rxServe (n : Nat) (d : DecState) : RxOutcome × DecState :=
  if n ≤ d.rx.stream.length then (.full (d.rx.stream.take n), d.rxAdvance n)
  else if d.rx.ended then (.short d.rx.stream, d.rxAdvance d.rx.stream.length)
  else (.hold, d)

/-- How many bytes of the stream a failing `RxRead(n)` had consumed: some number from 0 to `n` (U6).
DESIGN CHOICE (safe); log 4. -/
def failedBytes (n : Nat) (d : DecState) : Nat :=
  min (Config.rxFailConsumed d.draws % (n + 1)) d.rx.stream.length

/-- `RxRead(n)`, for `n >= 1` (R41, R64); logs 8, 25. -/
def rxRead (n : Nat) (d : DecState) : RxOutcome × DecState :=
  match d.rx.verdicts with
  | [] => rxServe n d
  | .serve :: _ => rxServe n d
  | .short k :: _ =>
    let b := d.rx.stream.take (min k (n - 1))
    (.short b, d.rxAdvance b.length)
  | .fail e :: _ => (.fail e, { d.rxAdvance (failedBytes n d) with draws := d.draws + 1 })
  | .wait :: rest => (.hold, { d with rx := { d.rx with verdicts := rest } })

/-- A step that reads `n >= 1` bytes and goes on with them: `Short` raises `TruncatedTransfer`, `Fail`
raises `TransportError` (R41, R194, R197); unanswered, the Decoder stays where it is (R63). -/
def readThen (n : Nat) (k : Bytes → DecState → DecState) (d : DecState) : DecState :=
  match rxRead n d with
  | (.full b, d') => k b d'
  | (.short _, d') => d'.raise .truncatedTransfer
  | (.fail e, d') => d'.raise (.transportError e)
  | (.hold, d') => d'

/-- The next `n` bytes, where the transport would answer `RxRead(n)` with `Full`. -/
def rxPeek (n : Nat) (d : DecState) : Option Bytes :=
  match (rxRead n d).1 with
  | .full b => some b
  | .short _ => none
  | .fail _ => none
  | .hold => none

/-! ### The queue and the payload buffer -/

/-- `QAppend(b)` (R49), with the finite capacity of U3: nothing where the release does not fit. -/
def DecState.qAppend (b : Bytes) (d : DecState) : Option DecState :=
  match d.cfg.qCapacity with
  | none => some { d with q := d.q ++ b }
  | some c => if d.q.length + b.length ≤ c then some { d with q := d.q ++ b } else none

/-- The queue serves the outstanding DEC.READ: `k <- min(max, len(dec.q))`, `out <- QTake(k)`, and the
operation ends (R131, R149). -/
def DecState.serve (d : DecState) : DecState :=
  match d.pend with
  | none => { d with phase := .idle }
  | some max =>
    let k := min max d.q.length
    { d.answer (.ok (d.q.take k)) with q := d.q.drop k, phase := .idle }

/-- `MemRead(off, n)` on the payload buffer (`00_scope.md` section 6, R47): nothing where the bytes are
not there. -/
def payloadRead (w : DecWork) (off n : Nat) : Option Bytes :=
  if off + n ≤ w.payload.length then some (slice w.payload off n) else none

/-! ### The outbound transport -/

/-- How many bytes of the buffer reached the peer in a `TxWrite` that failed: any prefix (R43, U7).
DESIGN CHOICE (safe); log 5. -/
def failedPrefix (e : EncState) : Nat := Config.txFailDelivered e.draws % (e.txbuf.length + 1)

/-- `TxWrite(enc.txbuf)` and what the operation does with the outcome (R43, R170, R173, R174); without
an outcome the Encoder stays blocked (R63). -/
def txWrite (e : EncState) : EncState :=
  match e.tx.verdicts with
  | [] => e
  | .wait :: rest => { e with tx := { e.tx with verdicts := rest } }
  | .done :: rest =>
    { e.retire with
      phase := .idle
      txLog := e.txLog ++ [e.txbuf]
      answers := e.answers ++ [.ok]
      tx := ⟨e.tx.sent ++ e.txbuf, rest⟩ }
  | .fail err :: rest =>
    { e.raise err with tx := ⟨e.tx.sent ++ e.txbuf.take (failedPrefix e), rest⟩ }

/-! ### From one direction to the machine -/

/-- What a direction's outcome is for the machine: the other direction is not touched (R29). -/
def State.withDec (s : State) : Host.Outcome DecState Fault Refusal → Host.Outcome State Fault Refusal
  | .next d => .next { s with dec := d }
  | .fault f => .fault f
  | .refused r => .refused r

/-- The same for the Encoder. -/
def State.withEnc (s : State) : Host.Outcome EncState Fault Refusal → Host.Outcome State Fault Refusal
  | .next e => .next { s with enc := e }
  | .fault f => .fault f
  | .refused r => .refused r

/-- A function of the shared traversal unit returns: it writes no state of the block (R100), only the
model's own result field; log 13. -/
def State.returns (s : State) (r : UnitResult) : Host.Outcome State Fault Refusal :=
  .next { s with unit := r }

end Sys2Proof.Machine
end

