-- ==== Sys2Proof/Machine/Wire.lean ====
section
/-! DEFINITION. The wire structures as instructions: what each does when its agent meets it at its
position (`30_encoding.md` R78; log 15). NTH, NDPF, PAD and PAYLOAD are consumed from RX by steps S1,
S2, S5 and S7; the entries are met by the traversal of S8; NTB1 is what the Encoder hands to TX. -/

namespace Sys2Proof.Machine

/-- The rest of step S1 once the 12 bytes are there: latch the fields, compare the signature (R140). -/
def DecState.latchNth (h : Nth) (d : DecState) : DecState :=
  let d := { d with work := { d.work with nth := h } }
  if h.sig = d.cfg.nthSig then { d with phase := .s2Ndpf } else d.raise .malformedHeader

/-- The rest of step S2 once the 8 bytes are there (R141). -/
def DecState.latchNdpf (p : Ndpf) (d : DecState) : DecState :=
  let d := { d with work := { d.work with ndp := p } }
  if p.sig = d.cfg.ndpSig then { d with phase := .s3Norm } else d.raise .malformedDatagramPointer

/-- The rest of step S5 once the 2 bytes are there: any value is accepted (R144). -/
def DecState.latchPad (b0 b1 : Byte) (d : DecState) : DecState :=
  { d with work := { d.work with pad := (b0, b1) }, phase := .s6Len }

/-- The rest of step S7 once the payload is there (R146); the traversal of S8 starts with an empty
stage (R22). -/
def DecState.latchPayload (b : Bytes) (d : DecState) : DecState :=
  { d with
    work := { d.work with payload := b, stage := [], slices := [], cursor := 0 }
    phase := .s8Extract }

/-- The traversal goes on to the next entry (R114). -/
def DecState.nextEntry (d : DecState) : DecState :=
  { d with work := { d.work with cursor := d.work.cursor + 1 } }

/-- A skipped entry: neither translated nor checked, and it contributes nothing (R111). -/
def DecState.skipEntry (d : DecState) : DecState := { d with phase := .s8Extract }.nextEntry

/-- A live entry: translated, bounds-checked, extracted into the stage (R112, R114, R147). -/
def DecState.liveEntry (e : Entry) (d : DecState) : Host.Outcome DecState Fault Refusal :=
  let d := { d with phase := .s8Extract }
  match translate e d.work.thl d.work.plen with
  | .error k => .next (d.raise k)
  | .ok off =>
    match payloadRead d.work off e.len.toNat with
    | none => .fault .payloadOutOfRange
    | some b =>
      .next { d with work := { d.work with
        stage := d.work.stage ++ b
        slices := d.work.slices ++ [b] } }.nextEntry

/-- NTH: the Decoder takes the header (R71, R140). -/
def execNth (h : Nth) (s : State) : Host.Outcome State Fault Refusal :=
  s.withDec (.next (({ s.dec with phase := .s1Nth }.rxAdvance Config.nthLen).latchNth h))

/-- NDPF: the Decoder takes the fixed part of the datagram pointer (R72, R141). -/
def execNdpf (p : Ndpf) (s : State) : Host.Outcome State Fault Refusal :=
  s.withDec (.next (({ s.dec with phase := .s2Ndpf }.rxAdvance Config.ndpfLen).latchNdpf p))

/-- ENTRY_TERM: skipped, and the traversal goes on (R111, R79). -/
def execEntryTerm (s : State) : Host.Outcome State Fault Refusal := s.withDec (.next s.dec.skipEntry)

/-- ENTRY_ZLEN: skipped exactly like the terminator, whatever its `Index` (R111, R79). -/
def execEntryZlen (_idx : U16) (s : State) : Host.Outcome State Fault Refusal :=
  s.withDec (.next s.dec.skipEntry)

/-- ENTRY_LIVE: translated, bounds-checked and extracted (R112, R79); log 23. -/
def execEntryLive (idx len : U16) (s : State) : Host.Outcome State Fault Refusal :=
  s.withDec (s.dec.liveEntry ⟨idx, len⟩)

/-- PAD: two bytes of any value (R74, R144). -/
def execPad (b0 b1 : Byte) (s : State) : Host.Outcome State Fault Refusal :=
  s.withDec (.next (({ s.dec with phase := .s5Pad }.rxAdvance Config.padLen).latchPad b0 b1))

/-- PAYLOAD: the `plen` bytes of the payload region (R75, R146); none are asked for where `plen` is 0
(R64). Bytes of another number are not the payload region; log 14. -/
def execPayload (bytes : Bytes) (s : State) : Host.Outcome State Fault Refusal :=
  let d := { s.dec with phase := .s7Pay }
  if bytes.length ≠ d.work.plen then .refused .outsideDomain
  else if bytes = [] then s.withDec (.next (d.latchPayload []))
  else s.withDec (.next ((d.rxAdvance bytes.length).latchPayload bytes))

/-- NTB1: the Encoder hands the NTB with this head to TX, in one write (R81, R115, R173); the frame
stands in the assembly buffer from byte 30 on; log 16. DESIGN CHOICE (unsafe) where `BlockLength`,
`Length` and the number of those bytes disagree: the bytes go out as they are; log 28. -/
def execNtb1 (seq blen elen : U16) (s : State) : Host.Outcome State Fault Refusal :=
  s.withEnc (.next (txWrite { s.enc with
    txbuf := ntb1Head s.enc.cfg seq blen elen ++ s.enc.txbuf.drop Config.encOverhead
    phase := .writing }))

end Sys2Proof.Machine
end

