-- ==== Sys2Proof/Machine/Decoder.lean ====
section
/-! DEFINITION. The Decoder's operations DEC.READ and DEC.NTB and their steps (`41_decoder.md` R131, R134,
R140 to R149). A step sets `dec.phase` itself, as its pseudocode does; the phases R133 names as
successors are set when it succeeds. -/

namespace Sys2Proof.Machine

/-- S1 (R140). -/
def DecState.stepS1 (d : DecState) : DecState :=
  readThen Config.nthLen (fun b d => d.latchNth (parseNTH b)) { d with phase := .s1Nth }

/-- S2 (R141): the 8 bytes that follow the NTH at once. -/
def DecState.stepS2 (d : DecState) : DecState :=
  readThen Config.ndpfLen (fun b d => d.latchNdpf (parseNDPF b)) { d with phase := .s2Ndpf }

/-- S3 (R142). -/
def DecState.stepS3 (d : DecState) : DecState :=
  { d with
    work := { d.work with ndpLen := normalise d.cfg d.work.ndp.lenRaw }
    phase := .s4Ent }

/-- The rest of S4 once the table is there. -/
def DecState.latchEntries (t : Bytes) (d : DecState) : DecState :=
  { d with work := { d.work with ent := parseEntries t }, phase := .s5Pad }

/-- S4 (R143): the length check first, then the table; an empty table is not asked for (R64). -/
def DecState.stepS4 (d : DecState) : DecState :=
  let d := { d with phase := .s4Ent }
  match entryCount d.work.ndpLen with
  | .error k => d.raise k
  | .ok n =>
    let d := { d with work := { d.work with nEnt := n } }
    if n = 0 then d.latchEntries []
    else readThen (Config.entryLen * n) (fun t d => d.latchEntries t) d

/-- S5 (R144). -/
def DecState.stepS5 (d : DecState) : DecState :=
  readThen Config.padLen (fun b d => d.latchPad (b.getD 0 0) (b.getD 1 0)) { d with phase := .s5Pad }

/-- S6 (R145). -/
def DecState.stepS6 (d : DecState) : DecState :=
  let d := { d with phase := .s6Len }
  match lengths d.work.nth.hlen d.work.ndpLen d.work.nth.blen d.work.ent with
  | .error k => d.raise k
  | .ok (thl, plen) => { d with work := { d.work with thl := thl, plen := plen }, phase := .s7Pay }

/-- S7 (R146): an empty payload is not asked for (R64). -/
def DecState.stepS7 (d : DecState) : DecState :=
  let d := { d with phase := .s7Pay }
  if d.work.plen = 0 then d.latchPayload []
  else readThen d.work.plen (fun b d => d.latchPayload b) d

/-- S8 (R147): the whole traversal. The payload buffer must hold the `plen` bytes the bounds check
speaks of; log 21. -/
def DecState.stepS8 (d : DecState) : Host.Outcome DecState Fault Refusal :=
  let d := { d with phase := .s8Extract }
  if d.work.payload.length < d.work.plen then .fault .payloadOutOfRange
  else
    match extract d.work.ent d.work.thl d.work.plen d.work.payload with
    | .error k => .next (d.raise k)
    | .ok slices =>
      .next { d with work := { d.work with
        slices := slices
        stage := slices.flatten
        cursor := d.work.ent.length } }

/-- The release (R148, R53): everything staged enters the queue and the log in one step. -/
def DecState.release (d : DecState) : Host.Outcome DecState Fault Refusal :=
  match d.qAppend d.work.stage with
  | none => .refused .queueOverflow
  | some d => .next { d with framesLog := d.framesLog ++ d.work.slices, phase := .s9Serve }

/-- S9 (R149), the tail of a read that decoded an NTB; with it the operation ends. -/
def DecState.stepS9 (d : DecState) : DecState := d.serve.retire

/-- The next step runs where the one before has moved the Decoder on to its phase; a step that raised
or is blocked in a transport call has not (R134, R63). -/
def DecState.thenAt (p : Phase) (f : DecState → DecState) (d : DecState) : DecState :=
  if d.phase = p then f d else d

/-- The same for a step that can end otherwise than in a next state. -/
def DecState.goOnAt (p : Phase) (f : DecState → Host.Outcome DecState Fault Refusal)
    (d : DecState) : Host.Outcome DecState Fault Refusal :=
  if d.phase = p then f d else .next d

/-- What follows an outcome: a next state goes on, anything else stands. -/
def andThen (o : Host.Outcome DecState Fault Refusal)
    (f : DecState → Host.Outcome DecState Fault Refusal) : Host.Outcome DecState Fault Refusal :=
  match o with
  | .next d => f d
  | .fault r => .fault r
  | .refused r => .refused r

/-- Steps S1 to S7: everything the Decoder reads of one NTB. -/
def DecState.readNtb (d : DecState) : DecState :=
  ((((((d.stepS1.thenAt .s2Ndpf DecState.stepS2).thenAt .s3Norm DecState.stepS3).thenAt
    .s4Ent DecState.stepS4).thenAt .s5Pad DecState.stepS5).thenAt .s6Len DecState.stepS6).thenAt
    .s7Pay DecState.stepS7)

/-- DEC.NTB (R134): steps S1 to S8 and the release, in order, until one raises or blocks. It starts at
S1 in any phase. DESIGN CHOICE (unsafe): the spec runs it from IDLE only; log 27. -/
def DecState.decodeNtb (d : DecState) : Host.Outcome DecState Fault Refusal :=
  andThen (d.readNtb.goOnAt .s8Extract DecState.stepS8) (DecState.goOnAt .s8Extract DecState.release)

/-- DEC.READ(max) (R131, R132): from the queue where it is long enough, else after exactly one NTB. -/
def DecState.read (max : Nat) (d : DecState) : Host.Outcome DecState Fault Refusal :=
  if d.phase ≠ .idle then .refused .requestWhileBusy
  else
    let d := { d with pend := some max }
    if max ≤ d.q.length then .next d.serve
    else andThen d.decodeNtb (DecState.goOnAt .s9Serve fun d => .next d.stepS9)

/-- DEC.READ (R131). -/
def execDecRead (max : Nat) (s : State) : Host.Outcome State Fault Refusal :=
  s.withDec (s.dec.read max)

/-- DEC.NTB (R134). DESIGN CHOICE (unsafe) for a Decoder that is not IDLE: it abandons the NTB in
progress, starts at S1 and keeps the outstanding read; the spec runs it from DEC.READ only; log 27. -/
def execDecNtb (s : State) : Host.Outcome State Fault Refusal := s.withDec s.dec.decodeNtb

/-- DEC.S1 (R140). -/
def execDecS1 (s : State) : Host.Outcome State Fault Refusal := s.withDec (.next s.dec.stepS1)

/-- DEC.S2 (R141). -/
def execDecS2 (s : State) : Host.Outcome State Fault Refusal := s.withDec (.next s.dec.stepS2)

/-- DEC.S3 (R142). -/
def execDecS3 (s : State) : Host.Outcome State Fault Refusal := s.withDec (.next s.dec.stepS3)

/-- DEC.S4 (R143). -/
def execDecS4 (s : State) : Host.Outcome State Fault Refusal := s.withDec (.next s.dec.stepS4)

/-- DEC.S5 (R144). -/
def execDecS5 (s : State) : Host.Outcome State Fault Refusal := s.withDec (.next s.dec.stepS5)

/-- DEC.S6 (R145). -/
def execDecS6 (s : State) : Host.Outcome State Fault Refusal := s.withDec (.next s.dec.stepS6)

/-- DEC.S7 (R146). -/
def execDecS7 (s : State) : Host.Outcome State Fault Refusal := s.withDec (.next s.dec.stepS7)

/-- DEC.S8 (R147). -/
def execDecS8 (s : State) : Host.Outcome State Fault Refusal := s.withDec s.dec.stepS8

/-- DEC.RELEASE (R148). -/
def execDecRelease (s : State) : Host.Outcome State Fault Refusal := s.withDec s.dec.release

/-- DEC.S9 (R149). -/
def execDecS9 (s : State) : Host.Outcome State Fault Refusal := s.withDec (.next s.dec.stepS9)

end Sys2Proof.Machine
end

