-- ==== Sys2Proof/Machine/Encoder.lean ====
section
/-! DEFINITION. The Encoder's one operation, ENC.WRITE (`42_encoder.md` R170 to R176). -/

namespace Sys2Proof.Machine

/-- ENC.WRITE(frame) (R170): the counter is used, then incremented modulo 65536 (R172), the NTB is
built (R171) and handed to TX in one write (R173). -/
def EncState.write (frame : Bytes) (e : EncState) : Host.Outcome EncState Fault Refusal :=
  if e.phase ≠ .idle then .refused .requestWhileBusy
  else if Config.maxFrame < frame.length then .refused .frameTooLong
  else
    .next (txWrite { e with
      seq := e.seq + 1
      txbuf := ntb1 e.cfg e.seq frame
      phase := .writing })

/-- ENC.WRITE (R170). -/
def execEncWrite (frame : Bytes) (s : State) : Host.Outcome State Fault Refusal :=
  s.withEnc (s.enc.write frame)

end Sys2Proof.Machine
end

