-- ==== Sys2Proof/Machine/Functions.lean ====
section
/-! DEFINITION. The functions of the shared traversal unit as instructions (`40_shared_traversal.md` R100
to R115): each returns its result and touches no state of the block; log 13. A function that raises
returns the kind: the caller's step is what raises it. -/

namespace Sys2Proof.Machine

/-- ParseNTH (R101); the input has 12 bytes. -/
def execParseNTH (b : Bytes) (s : State) : Host.Outcome State Fault Refusal :=
  if b.length = Config.nthLen then s.returns (.nth (parseNTH b)) else .refused .outsideDomain

/-- SerNTH (R102). -/
def execSerNTH (h : Nth) (s : State) : Host.Outcome State Fault Refusal :=
  s.returns (.bytes (serNTH h))

/-- ParseNDPF (R103); the input has 8 bytes. -/
def execParseNDPF (b : Bytes) (s : State) : Host.Outcome State Fault Refusal :=
  if b.length = Config.ndpfLen then s.returns (.ndpf (parseNDPF b)) else .refused .outsideDomain

/-- SerNDPF (R103). -/
def execSerNDPF (p : Ndpf) (s : State) : Host.Outcome State Fault Refusal :=
  s.returns (.bytes (serNDPF p))

/-- ParseEntries (R104); the input's length is a multiple of 4. -/
def execParseEntries (t : Bytes) (s : State) : Host.Outcome State Fault Refusal :=
  if t.length % Config.entryLen = 0 then s.returns (.entries (parseEntries t))
  else .refused .outsideDomain

/-- SerEntries (R104). -/
def execSerEntries (es : List Entry) (s : State) : Host.Outcome State Fault Refusal :=
  s.returns (.bytes (serEntries es))

/-- Normalise (R105). -/
def execNormalise (cfg : Cfg) (v : U16) (s : State) : Host.Outcome State Fault Refusal :=
  s.returns (.u16 (normalise cfg v))

/-- EntryCount (R106). -/
def execEntryCount (ndplen : U16) (s : State) : Host.Outcome State Fault Refusal :=
  match entryCount ndplen with
  | .ok n => s.returns (.nat n)
  | .error k => s.returns (.raised k)

/-- Lengths (R107). -/
def execLengths (hlen ndplen blen : U16) (es : List Entry) (s : State) :
    Host.Outcome State Fault Refusal :=
  match lengths hlen ndplen blen es with
  | .ok (thl, plen) => s.returns (.lengths thl plen)
  | .error k => s.returns (.raised k)

/-- IsSkipped (R111). -/
def execIsSkipped (e : Entry) (s : State) : Host.Outcome State Fault Refusal :=
  s.returns (.bool (isSkipped e))

/-- Translate (R112, for a live entry; log 23). -/
def execTranslate (e : Entry) (thl plen : Nat) (s : State) : Host.Outcome State Fault Refusal :=
  match translate e thl plen with
  | .ok off => s.returns (.nat off)
  | .error k => s.returns (.raised k)

/-- Extract (R114); the payload has `plen` bytes. -/
def execExtract (es : List Entry) (thl plen : Nat) (payload : Bytes) (s : State) :
    Host.Outcome State Fault Refusal :=
  if payload.length ≠ plen then .refused .outsideDomain
  else
    match extract es thl plen payload with
    | .ok l => s.returns (.slices l)
    | .error k => s.returns (.raised k)

/-- NTB1.build (R115); the frame has at most 65505 bytes. -/
def execNtb1Build (cfg : Cfg) (sq : U16) (frame : Bytes) (s : State) :
    Host.Outcome State Fault Refusal :=
  if Config.maxFrame < frame.length then .refused .frameTooLong
  else s.returns (.bytes (ntb1 cfg sq frame))

end Sys2Proof.Machine
end

