-- ==== Sys2Proof/Machine/System.lean ====
section
/-! DEFINITION. The one system operation, RESET (`70_reset_and_hazards.md` R230, R231). -/

namespace Sys2Proof.Machine

/-- RESET of the Decoder: a new instance with configuration `cfg`, bound to the transport `rx`; the
working registers become unspecified (R230); logs 11, 12. -/
def DecState.create (cfg : Cfg) (rx : RxLine) (d : DecState) : DecState :=
  { d.retire with
    cfg := cfg
    q := []
    fault := .none
    phase := .idle
    rxCount := 0
    framesLog := []
    pend := none
    answers := []
    rx := rx }

/-- RESET of the Encoder (R230): the counter starts at `cfg.SEQ_INIT`. -/
def EncState.create (cfg : Cfg) (verdicts : List TxVerdict) (e : EncState) : EncState :=
  { e.retire with
    cfg := cfg
    seq := cfg.seqInit
    fault := .none
    phase := .idle
    txLog := []
    answers := []
    tx := ⟨[], verdicts⟩ }

/-- RESET (R230) of one direction; the other is not touched (R231). -/
def execReset (target : ResetTarget) (cfg : Cfg) (s : State) : Host.Outcome State Fault Refusal :=
  match target with
  | .dec rx =>
    if s.dec.phase ≠ .idle then .refused .resetWhileBusy
    else s.withDec (.next (s.dec.create cfg rx))
  | .enc verdicts =>
    if s.enc.phase ≠ .idle then .refused .resetWhileBusy
    else s.withEnc (.next (s.enc.create cfg verdicts))

end Sys2Proof.Machine
end

