-- ==== Sys2Proof/Machine/Dispatch.lean ====
section
/-! DEFINITION. One arm per row of the opcode table. -/

namespace Sys2Proof.Machine

def exec (i : Instr) (s : State) : Host.Outcome State Fault Refusal :=
  match i with
  -- wire structures
  | .nth h => Sys2Proof.Machine.execNth h s
  | .ndpf p => Sys2Proof.Machine.execNdpf p s
  | .entryTerm => Sys2Proof.Machine.execEntryTerm s
  | .entryZlen idx => Sys2Proof.Machine.execEntryZlen idx s
  | .entryLive idx len => Sys2Proof.Machine.execEntryLive idx len s
  | .pad b0 b1 => Sys2Proof.Machine.execPad b0 b1 s
  | .payload bytes => Sys2Proof.Machine.execPayload bytes s
  | .ntb1 seq blen elen => Sys2Proof.Machine.execNtb1 seq blen elen s
  -- the Decoder
  | .decRead max => Sys2Proof.Machine.execDecRead max s
  | .decNtb => Sys2Proof.Machine.execDecNtb s
  | .decS1 => Sys2Proof.Machine.execDecS1 s
  | .decS2 => Sys2Proof.Machine.execDecS2 s
  | .decS3 => Sys2Proof.Machine.execDecS3 s
  | .decS4 => Sys2Proof.Machine.execDecS4 s
  | .decS5 => Sys2Proof.Machine.execDecS5 s
  | .decS6 => Sys2Proof.Machine.execDecS6 s
  | .decS7 => Sys2Proof.Machine.execDecS7 s
  | .decS8 => Sys2Proof.Machine.execDecS8 s
  | .decRelease => Sys2Proof.Machine.execDecRelease s
  | .decS9 => Sys2Proof.Machine.execDecS9 s
  -- the Encoder and the system
  | .encWrite frame => Sys2Proof.Machine.execEncWrite frame s
  | .reset target cfg => Sys2Proof.Machine.execReset target cfg s
  -- the shared traversal unit
  | .parseNTH b => Sys2Proof.Machine.execParseNTH b s
  | .serNTH h => Sys2Proof.Machine.execSerNTH h s
  | .parseNDPF b => Sys2Proof.Machine.execParseNDPF b s
  | .serNDPF p => Sys2Proof.Machine.execSerNDPF p s
  | .parseEntries t => Sys2Proof.Machine.execParseEntries t s
  | .serEntries es => Sys2Proof.Machine.execSerEntries es s
  | .normalise cfg v => Sys2Proof.Machine.execNormalise cfg v s
  | .entryCount ndplen => Sys2Proof.Machine.execEntryCount ndplen s
  | .lengths hlen ndplen blen es => Sys2Proof.Machine.execLengths hlen ndplen blen es s
  | .isSkipped e => Sys2Proof.Machine.execIsSkipped e s
  | .translate e thl plen => Sys2Proof.Machine.execTranslate e thl plen s
  | .extract es thl plen payload => Sys2Proof.Machine.execExtract es thl plen payload s
  | .ntb1Build cfg sq frame => Sys2Proof.Machine.execNtb1Build cfg sq frame s

end Sys2Proof.Machine
end

