-- ==== Sys2Proof/Machine/Fetch.lean ====
section
/-! DEFINITION. What the scheduled agent does next (`41_decoder.md` R133, log 9): an idle agent takes its
caller's next request; a Decoder left in a phase takes the wire structure that stands there, or runs the
phase's step; an Encoder blocked in `TxWrite` goes on with the NTB in its assembly buffer. -/

namespace Sys2Proof.Machine

/-- An agent's next move. -/
inductive Fetched where
  /-- Nothing to do: no request (R230 "each direction is idle and waits for its caller"). -/
  | hold
  /-- Run an instruction, in the state without the request it came from. -/
  | run (i : Instr) (s : State)
  /-- Nothing the agent could run stands there. -/
  | stuck (r : Refusal)
deriving DecidableEq, Repr

/-- A structure fetched from RX, where all its bytes are at hand (R78); else the step that waits for
them or takes their absence. -/
def fetchRx (pos : Pos) (otherwise : Instr) (s : State) : Fetched :=
  match rxPeek pos.size s.dec with
  | none => .run otherwise s
  | some b =>
    match decode s.dec.cfg pos b with
    | .ok (i, _) => .run i s
    | .error _ => .run otherwise s

/-- The next entry of the table buffer, or the release after the last one (R133, R147, R148). -/
def fetchEntry (s : State) : Fetched :=
  match s.dec.work.ent[s.dec.work.cursor]? with
  | none => .run .decRelease s
  | some e =>
    match decode s.dec.cfg .entry (serEntry e) with
    | .ok (i, _) => .run i s
    | .error _ => .run .decRelease s

/-- The Decoder's next move. -/
def fetchDec (s : State) : Fetched :=
  match s.dec.phase with
  | .idle =>
    match s.dec.reqs with
    | [] => .hold
    | .read max :: rest => .run (.decRead max) { s with dec := { s.dec with reqs := rest } }
    | .reset cfg rx :: rest => .run (.reset (.dec rx) cfg) { s with dec := { s.dec with reqs := rest } }
  | .s1Nth => fetchRx .nth .decS1 s
  | .s2Ndpf => fetchRx .ndpf .decS2 s
  | .s3Norm => .run .decS3 s
  | .s4Ent => .run .decS4 s
  | .s5Pad => fetchRx .pad .decS5 s
  | .s6Len => .run .decS6 s
  | .s7Pay =>
    if s.dec.work.plen = 0 then .run .decS7 s else fetchRx (.payload s.dec.work.plen) .decS7 s
  | .s8Extract => fetchEntry s
  | .s9Serve => .run .decS9 s

/-- The Encoder's next move. Blocked in `TxWrite` it goes on with the NTB in its buffer, log 16. DESIGN
CHOICE (unsafe): of that buffer only the fixed bytes of R81 are held against the form; log 28. -/
def fetchEnc (s : State) : Fetched :=
  match s.enc.phase with
  | .idle =>
    match s.enc.reqs with
    | [] => .hold
    | .write frame :: rest => .run (.encWrite frame) { s with enc := { s.enc with reqs := rest } }
    | .reset cfg v :: rest => .run (.reset (.enc v) cfg) { s with enc := { s.enc with reqs := rest } }
  | .writing =>
    match decode s.enc.cfg .ntb1 s.enc.txbuf with
    | .ok (i, _) => .run i s
    | .error _ => .stuck .notTheEmittedForm

/-- The next move of an agent. -/
def fetch (a : Agent) (s : State) : Fetched :=
  match a with
  | .dec => fetchDec s
  | .enc => fetchEnc s

/-- One move of an agent. -/
def turn (a : Agent) (s : State) : Host.Outcome State Fault Refusal :=
  match fetch a s with
  | .hold => .next s
  | .run i s' => exec i s'
  | .stuck r => .refused r

/-- The entry a 4-byte structure is. -/
def entryOf (b : Bytes) : Entry := parseEntry b

/-- The state in which the structure with bytes `b` stands where its agent takes its next one; log 18. -/
def placeAt (pos : Pos) (b : Bytes) (s : State) : State :=
  let rx : RxLine := { s.dec.rx with
    stream := b ++ s.dec.rx.stream.drop b.length
    verdicts := .serve :: s.dec.rx.verdicts }
  let dec (p : Phase) : State := { s with dec := { s.dec with phase := p, rx := rx }, sched := .dec :: s.sched }
  match pos with
  | .nth => dec .s1Nth
  | .ndpf => dec .s2Ndpf
  | .pad => dec .s5Pad
  | .payload n =>
    { s with
      dec := { s.dec with phase := .s7Pay, rx := rx, work := { s.dec.work with plen := n } }
      sched := .dec :: s.sched }
  | .entry =>
    { s with
      dec := { s.dec with
        phase := .s8Extract
        work := { s.dec.work with ent := [entryOf b], nEnt := 1, cursor := 0 } }
      sched := .dec :: s.sched }
  | .ntb1 =>
    { s with
      enc := { s.enc with
        phase := .writing
        txbuf := b ++ zeros (u16At b 22).toNat
        tx := { s.enc.tx with verdicts := .done :: s.enc.tx.verdicts } }
      sched := .enc :: s.sched }

end Sys2Proof.Machine
end

