-- ==== Sys2Proof/Machine/Step.lean ====
section
/-! DEFINITION. One step: the agent the schedule names makes one move (`60_exceptions.md` R213, log 6). -/

namespace Sys2Proof.Machine

/-- One step of the machine. Where no agent is scheduled nothing happens. -/
def step (s : State) : Host.Outcome State Fault Refusal :=
  match s.sched with
  | [] => .next s
  | a :: rest => turn a { s with sched := rest }

/-- `s` with the structure of a table word placed where the next step takes it; log 18. -/
def State.withFetchWord (s : State) (nbits w : Nat) : State :=
  placeAt (tablePos nbits w) (tableBytes nbits w) s

end Sys2Proof.Machine
end

