-- ==== Sys2Proof/Machine/BigStep.lean ====
section
/-! DEFINITION. The Decoder in big-step form (`41_decoder.md` R152): one NTB as a function of the
configuration and the remaining stream, for a transport that never fails and gives `Short` only at the
end of the stream. No meaning calls it: statements compare DEC.NTB with it. -/

namespace Sys2Proof.Machine

/-- The slices of the next NTB of `rx`, or the first error met, and how many bytes were taken (R152,
and the accounting of R151). -/
def bigStep (cfg : Cfg) (rx : Bytes) : Except ErrorKind (List Bytes) × Nat :=
  if rx.length < 12 then (.error .truncatedTransfer, rx.length)
  else
    let h := parseNTH (rx.take 12)
    if h.sig ≠ cfg.nthSig then (.error .malformedHeader, 12)
    else if rx.length < 20 then (.error .truncatedTransfer, rx.length)
    else
      let p := parseNDPF (slice rx 12 8)
      if p.sig ≠ cfg.ndpSig then (.error .malformedDatagramPointer, 20)
      else
        let n := normalise cfg p.lenRaw
        match entryCount n with
        | .error k => (.error k, 20)
        | .ok c =>
          if rx.length < 22 + 4 * c then (.error .truncatedTransfer, rx.length)
          else
            let es := parseEntries (slice rx 20 (4 * c))
            match lengths h.hlen n h.blen es with
            | .error k => (.error k, 22 + 4 * c)
            | .ok (thl, plen) =>
              if rx.length < 22 + 4 * c + plen then (.error .truncatedTransfer, rx.length)
              else (extract es thl plen (slice rx (22 + 4 * c) plen), 22 + 4 * c + plen)

end Sys2Proof.Machine
end

