-- ==== Sys2Proof/Safety.lean ====
section
/-! DEFINITION. What holds of every state the machine reaches, in the terms of the spec, and what a safe
step is. -/

namespace Sys2Proof.Machine

/-- The bytes the results hand over (`10_state.md` R23). -/
def served : List DecAnswer → Bytes
  | [] => []
  | .ok out :: rest => out ++ served rest
  | .err _ :: rest => served rest

/-- The status of the first error among the results (R13). -/
def firstDecError : List DecAnswer → DecFault
  | [] => .none
  | .ok _ :: rest => firstDecError rest
  | .err k :: _ => statusOf k

/-- The status of the first error among the results (R25). -/
def firstEncError : List EncAnswer → EncFault
  | [] => .none
  | .ok :: rest => firstEncError rest
  | .err _ :: _ => .transportError

/-- The Decoder stands behind step S1 of an NTB. -/
def Phase.pastS1 : Phase → Bool
  | .s2Ndpf | .s3Norm | .s4Ent | .s5Pad | .s6Len | .s7Pay | .s8Extract => true
  | .idle | .s1Nth | .s9Serve => false

/-- Behind S2. -/
def Phase.pastS2 : Phase → Bool
  | .s3Norm | .s4Ent | .s5Pad | .s6Len | .s7Pay | .s8Extract => true
  | .idle | .s1Nth | .s2Ndpf | .s9Serve => false

/-- Behind S3. -/
def Phase.pastS3 : Phase → Bool
  | .s4Ent | .s5Pad | .s6Len | .s7Pay | .s8Extract => true
  | .idle | .s1Nth | .s2Ndpf | .s3Norm | .s9Serve => false

/-- Behind S4. -/
def Phase.pastS4 : Phase → Bool
  | .s5Pad | .s6Len | .s7Pay | .s8Extract => true
  | .idle | .s1Nth | .s2Ndpf | .s3Norm | .s4Ent | .s9Serve => false

/-- Behind S6. -/
def Phase.pastS6 : Phase → Bool
  | .s7Pay | .s8Extract => true
  | .idle | .s1Nth | .s2Ndpf | .s3Norm | .s4Ent | .s5Pad | .s6Len | .s9Serve => false

/-- What the working registers hold while an NTB is being decoded: each step's check has passed before
a later phase is reached (R133, R134, R140 to R147). -/
structure WorkInv (d : DecState) : Prop where
  nthSig : d.phase.pastS1 = true → d.work.nth.sig = d.cfg.nthSig
  ndpSig : d.phase.pastS2 = true → d.work.ndp.sig = d.cfg.ndpSig
  ndpLen : d.phase.pastS3 = true → d.work.ndpLen = normalise d.cfg d.work.ndp.lenRaw
  table : d.phase.pastS4 = true →
    entryCount d.work.ndpLen = .ok d.work.nEnt ∧ d.work.ent.length = d.work.nEnt
  lengths : d.phase.pastS6 = true →
    lengths d.work.nth.hlen d.work.ndpLen d.work.nth.blen d.work.ent = .ok (d.work.thl, d.work.plen)
  staged : d.phase = .s8Extract →
    d.work.payload.length = d.work.plen ∧ d.work.cursor ≤ d.work.ent.length ∧
    extract (d.work.ent.take d.work.cursor) d.work.thl d.work.plen d.work.payload = .ok d.work.slices ∧
    d.work.stage = d.work.slices.flatten

/-- The Decoder's invariant: nothing is delivered but what was released, in order and without gap or
duplication (R23, R56); the status is that of the first error (R13); a read is outstanding exactly
while the Decoder is not idle (R14, R240); no released frame is empty (R111, R114). -/
structure DecInv (d : DecState) : Prop where
  stream : d.framesLog.flatten = served d.answers ++ d.q
  sticky : d.fault = firstDecError d.answers
  outstanding : d.phase = .idle ↔ d.pend = none
  nonempty : ∀ f ∈ d.framesLog, f ≠ []
  work : WorkInv d

/-- `b` is an NTB of the form the Encoder emits (R81). -/
def IsEmitted (cfg : Cfg) (b : Bytes) : Prop :=
  ∃ s frame, frame.length ≤ Config.maxFrame ∧ b = ntb1 cfg s frame

/-- One if an ENC.WRITE is outstanding. -/
def EncPhase.count : EncPhase → Nat
  | .idle => 0
  | .writing => 1

/-- The Encoder's invariant: the counter has counted every NTB constructed since reset (R172, R211); an
outstanding write holds the NTB with the number before it, in the one form (R81, R170); whole NTBs only
were handed over (R173); the status is that of the first error (R25). -/
structure EncInv (e : EncState) : Prop where
  counter : e.seq = e.cfg.seqInit + BitVec.ofNat 16 (e.answers.length + e.phase.count)
  sticky : e.fault = firstEncError e.answers
  buffer : e.phase = .writing →
    ∃ frame, frame.length ≤ Config.maxFrame ∧ e.txbuf = ntb1 e.cfg (e.seq - 1) frame
  log : ∀ b ∈ e.txLog, IsEmitted e.cfg b
  delivered : e.fault = .none → e.tx.sent = e.txLog.flatten

/-- The invariant of the machine. -/
structure Invariant (s : State) : Prop where
  dec : DecInv s.dec
  enc : EncInv s.enc

/-! ### The terms the statements use -/

/-- Nothing but the Decoder's side changes. -/
def OnlyDec (s t : State) : Prop := t.enc = s.enc ∧ t.sched = s.sched ∧ t.unit = s.unit

/-- Nothing but the Encoder's side changes. -/
def OnlyEnc (s t : State) : Prop := t.dec = s.dec ∧ t.sched = s.sched ∧ t.unit = s.unit

/-- `d'` is `d` after `raise k` with `n` bytes of RX consumed (`60_exceptions.md` R200). The working
registers but for the discarded stage are unspecified (U2), and so are the draw counter and what the
transport will decide next. -/
structure Raised (k : ErrorKind) (n : Nat) (d d' : DecState) : Prop where
  queue : d'.q = d.q
  log : d'.framesLog = d.framesLog
  cursor : d'.rxCount = d.rxCount + n
  stream : d'.rx.stream = d.rx.stream.drop n
  ended : d'.rx.ended = d.rx.ended
  status : d'.fault = if d.fault = .none then statusOf k else d.fault
  phase : d'.phase = .idle
  stage : d'.work.stage = []
  outstanding : d'.pend = none
  result : d'.answers = d.answers ++ (if d.pend = none then [] else [.err k])
  cfg : d'.cfg = d.cfg
  reqs : d'.reqs = d.reqs

/-- A finite queue has room for what the next NTB of the stream would release (U3). -/
def ReleaseFits (d : DecState) : Prop :=
  ∀ slices n c, bigStep d.cfg d.rx.stream = (.ok slices, n) → d.cfg.qCapacity = some c →
    d.q.length + slices.flatten.length ≤ c

/-- How many bytes a reading step asks RX for, where it asks for any (R140, R141, R143, R144, R146,
R64). -/
def readsOf (d : DecState) : Instr → Option Nat
  | .decS1 => some 12
  | .decS2 => some 8
  | .decS4 =>
    match entryCount d.work.ndpLen with
    | .ok n => if n = 0 then none else some (4 * n)
    | .error _ => none
  | .decS5 => some 2
  | .decS7 => if d.work.plen = 0 then none else some d.work.plen
  | _ => none

/-- How many bytes of RX a wire structure stands for (R71, R72, R74, R75). -/
def rxTaken : Instr → Nat
  | .nth _ => 12
  | .ndpf _ => 8
  | .pad _ _ => 2
  | .payload bytes => bytes.length
  | _ => 0

/-- The transport answers the next call from its stream: no verdict is listed, or `serve` (log 8). -/
def Serving (rx : RxLine) : Prop := rx.verdicts = [] ∨ ∃ rest, rx.verdicts = .serve :: rest

/-- The phase of a step that reads from RX: the one in which its call blocks (R14, R63, R133). -/
def callPhase : Instr → Option Phase
  | .decS1 => some .s1Nth
  | .decS2 => some .s2Ndpf
  | .decS4 => some .s4Ent
  | .decS5 => some .s5Pad
  | .decS7 => some .s7Pay
  | _ => none

/-- `d'` is `d` blocked in the unanswered read of `n` bytes of step `i` (R63): it stands in the phase of
that call, nothing is consumed, delivered or raised, and no working register is written but `n_ent`,
which S4 has counted before it reads its table of `4 * n_ent` bytes (R143). -/
structure Held (i : Instr) (n : Nat) (d d' : DecState) : Prop where
  phase : callPhase i = some d'.phase
  work : d'.work = if i = .decS4 then { d.work with nEnt := n / 4 } else d.work
  draws : d'.draws = d.draws
  cursor : d'.rxCount = d.rxCount
  queue : d'.q = d.q
  log : d'.framesLog = d.framesLog
  status : d'.fault = d.fault
  answers : d'.answers = d.answers
  outstanding : d'.pend = d.pend
  cfg : d'.cfg = d.cfg
  reqs : d'.reqs = d.reqs

/-- Which agent's state an instruction touches (R29); the functions touch none (R100). -/
def agentOf : Instr → Option Agent
  | .nth _ => some .dec
  | .ndpf _ => some .dec
  | .entryTerm => some .dec
  | .entryZlen _ => some .dec
  | .entryLive _ _ => some .dec
  | .pad _ _ => some .dec
  | .payload _ => some .dec
  | .ntb1 _ _ _ => some .enc
  | .decRead _ => some .dec
  | .decNtb => some .dec
  | .decS1 => some .dec
  | .decS2 => some .dec
  | .decS3 => some .dec
  | .decS4 => some .dec
  | .decS5 => some .dec
  | .decS6 => some .dec
  | .decS7 => some .dec
  | .decS8 => some .dec
  | .decRelease => some .dec
  | .decS9 => some .dec
  | .encWrite _ => some .enc
  | .reset (.dec _) _ => some .dec
  | .reset (.enc _) _ => some .enc
  | .parseNTH _ => none
  | .serNTH _ => none
  | .parseNDPF _ => none
  | .serNDPF _ => none
  | .parseEntries _ => none
  | .serEntries _ => none
  | .normalise _ _ => none
  | .entryCount _ => none
  | .lengths _ _ _ _ => none
  | .isSkipped _ => none
  | .translate _ _ _ => none
  | .extract _ _ _ _ => none
  | .ntb1Build _ _ _ => none

/-- The instruction is RESET. -/
def isReset : Instr → Bool
  | .reset _ _ => true
  | _ => false

/-- The stream of the NTBs the Encoder builds for `frames` from sequence number `s` on (R177). -/
def ntbStream (cfg : Cfg) : U16 → List Bytes → List Bytes
  | _, [] => []
  | s, frame :: rest => ntb1 cfg s frame :: ntbStream cfg (s + 1) rest

/-- The step is no fault: nothing is read outside the payload buffer (R196 "rather than reading out of
bounds"). -/
def Safe (s : State) : Prop := ∀ f, step s ≠ .fault f

end Sys2Proof.Machine
end

