-- ==== Sys2Proof/Certificates/Slice0/Obligations.lean ====
section
/-! DEFINITION. The statements for the provers. `exec` and `step` are the machine's; the terms used are
those of `Sys2Proof/Safety.lean`. -/

open Sys2Proof Sys2Proof.Machine

/-! ### The wire format -/

/-- Decoding the bytes of a well-formed structure at its position gives it back, and the bytes after it
are left (R70 to R75, R78, R79, R81). -/
def Obligations.DecodeUndoesEncode : Prop :=
  ∀ (cfg : Cfg) (i : Instr) (pos : Pos) (b rest : Bytes), i.wf = true → posOf i = some pos →
    encode cfg i = some b → decode cfg pos (b ++ rest) = .ok (i, rest)

/-- What the decoder reads at a position stands there in exactly its own encoding: every bit of the
bytes is accounted for (R70 to R76). -/
def Obligations.EncodeUndoesDecode : Prop :=
  ∀ (cfg : Cfg) (pos : Pos) (bs : Bytes) (i : Instr) (rest : Bytes),
    decode cfg pos bs = .ok (i, rest) →
    ∃ b, encode cfg i = some b ∧ posOf i = some pos ∧ bs = b ++ rest

/-- `SerNTH` packs the five fields little-endian into 12 bytes and is inverse to `ParseNTH` (R102). -/
def Obligations.HeaderPackingInverse : Prop :=
  (∀ h : Nth,
    serNTH h = le32 h.sig ++ le16 h.hlen ++ le16 h.seq ++ le16 h.blen ++ le16 h.ndpidx ∧
    (serNTH h).length = 12 ∧ parseNTH (serNTH h) = h) ∧
  (∀ b : Bytes, b.length = 12 → serNTH (parseNTH b) = b) ∧
  serNTH ⟨0x484D434E, 12, 65535, 30, 12⟩ =
    [0x4E, 0x43, 0x4D, 0x48, 0x0C, 0, 0xFF, 0xFF, 0x1E, 0, 0x0C, 0]

/-- `ParseNDPF` and `SerNDPF` read and write the three fields and are inverse to each other (R103). -/
def Obligations.PointerPackingInverse : Prop :=
  (∀ b : Bytes, b.length = 8 →
    parseNDPF b = ⟨u32At b 0, u16At b 4, u16At b 6⟩ ∧ serNDPF (parseNDPF b) = b) ∧
  (∀ p : Ndpf, serNDPF p = le32 p.sig ++ le16 p.lenRaw ++ le16 p.next ∧ (serNDPF p).length = 8 ∧
    parseNDPF (serNDPF p) = p) ∧
  parseNDPF [0x4E, 0x43, 0x4D, 0x30, 0x10, 0, 0, 0] = ⟨0x304D434E, 16, 0⟩

/-- `ParseEntries` keeps table order: element `i` is made of the bytes `4i` to `4i + 3`; `SerEntries`
writes the entries one after the other; on whole entries the two are inverse (R104). -/
def Obligations.EntriesPackInOrder : Prop :=
  (∀ t : Bytes, t.length % 4 = 0 →
    (parseEntries t).length = t.length / 4 ∧
    (∀ i, i < t.length / 4 →
      (parseEntries t)[i]? = some ⟨u16At t (4 * i), u16At t (4 * i + 2)⟩) ∧
    serEntries (parseEntries t) = t) ∧
  (∀ es : List Entry, serEntries es = (es.map fun e => le16 e.idx ++ le16 e.len).flatten ∧
    parseEntries (serEntries es) = es) ∧
  parseEntries [] = [] ∧
  parseEntries [0x1E, 0, 0x0C, 0, 0, 0, 0, 0] = [⟨30, 12⟩, ⟨0, 0⟩]

/-- A few words written out from the spec's tables decode to what they stand for: the header and the
pointer of V1, one entry of each class, padding, and the head the Encoder emits (R71 to R74, R79,
R81). The model's own choices it rests on: log 17. -/
def Obligations.WrittenOutWordsDecode : Prop :=
  decodeTableWord 96 0x000C002A0000000C484D434E = some (.nth ⟨0x484D434E, 12, 0, 42, 12⟩) ∧
  decodeTableWord 64 0x00000010304D434E = some (.ndpf ⟨0x304D434E, 16, 0⟩) ∧
  decodeTableWord 32 0x00000000 = some .entryTerm ∧
  decodeTableWord 32 0x00000005 = some (.entryZlen 5) ∧
  decodeTableWord 32 0x000C001E = some (.entryLive 30 12) ∧
  decodeTableWord 16 0xFFFE = some (.pad 0xFE 0xFF) ∧
  decodeTableWord 240 0x0000000000000004001E00000010304D434E000C00220001000C484D434E =
    some (.ntb1 1 34 4)

/-! ### The functions of the shared traversal unit -/

/-- `Normalise`: the first pair that matches gives the value and it is not normalised again; without a
match, and so with the empty list, the value stays; with this hardware's list exactly 0x8C becomes
0x3C (R105). -/
def Obligations.QuirkFirstMatchOnce : Prop :=
  (∀ (cfg : Cfg) (before after : List (U16 × U16)) (v r : U16),
    cfg.quirks = before ++ (v, r) :: after → (∀ p ∈ before, p.1 ≠ v) → normalise cfg v = r) ∧
  (∀ (cfg : Cfg) (v : U16), (∀ p ∈ cfg.quirks, p.1 ≠ v) → normalise cfg v = v) ∧
  normalise Cfg.standard 0x008C = 0x003C ∧
  ∀ v : U16, v ≠ 0x008C → normalise Cfg.standard v = v

/-- `EntryCount` answers `n` exactly for a length of `8 + 4n`, raises `InconsistentLength` for every
other length, and never counts more than 16381 (R106). -/
def Obligations.EntryCountExact : Prop :=
  ∀ l : U16,
    (∀ n, entryCount l = .ok n ↔ l.toNat = 8 + 4 * n) ∧
    ((∀ n, l.toNat ≠ 8 + 4 * n) → entryCount l = .error .inconsistentLength) ∧
    ∀ n, entryCount l = .ok n → n ≤ 16381

/-- `Lengths`: the two conditions of R107 and no other raise; otherwise `thl` is the sum and `plen` what
is left of `BlockLength`, exactly. For a normalised length of at least 8 the results lie in the ranges
of R110 (a), and a live entry that `Translate` passes has its slice in the payload (R112). -/
def Obligations.LengthsExact : Prop :=
  ∀ (hlen ndplen blen : U16) (es : List Entry),
    (blen.toNat < hlen.toNat + ndplen.toNat + 2 →
      lengths hlen ndplen blen es = .error .inconsistentLength) ∧
    (blen.toNat = hlen.toNat + ndplen.toNat + 2 → (∃ e ∈ es, e.len ≠ 0) →
      lengths hlen ndplen blen es = .error .inconsistentLength) ∧
    (hlen.toNat + ndplen.toNat + 2 ≤ blen.toNat →
      (blen.toNat = hlen.toNat + ndplen.toNat + 2 → ∀ e ∈ es, e.len = 0) →
      ∃ thl plen, lengths hlen ndplen blen es = .ok (thl, plen) ∧
        thl = hlen.toNat + ndplen.toNat + 2 ∧ blen.toNat = thl + plen) ∧
    ∀ thl plen, 8 ≤ ndplen.toNat → lengths hlen ndplen blen es = .ok (thl, plen) →
      10 ≤ thl ∧ thl ≤ 131072 ∧ plen ≤ 65525 ∧
      ∀ (e : Entry) (off : Nat), e.len ≠ 0 → Machine.translate e thl plen = .ok off → off + e.len.toNat ≤ plen

/-- `Translate` of a live entry: the offset is `Index - thl` where that is not negative and the datagram
ends inside the payload, and `CorruptFrame` otherwise (R112). -/
def Obligations.TranslateExact : Prop :=
  ∀ (e : Entry) (thl plen : Nat), e.len ≠ 0 →
    (thl ≤ e.idx.toNat → e.idx.toNat - thl + e.len.toNat ≤ plen →
      Machine.translate e thl plen = .ok (e.idx.toNat - thl)) ∧
    (e.idx.toNat < thl → Machine.translate e thl plen = .error .corruptFrame) ∧
    (thl ≤ e.idx.toNat → plen < e.idx.toNat - thl + e.len.toNat →
      Machine.translate e thl plen = .error .corruptFrame)

/-- `Extract`: where every live entry is in bounds, the slices of the live entries in table order and
none of them empty; where one is not, `CorruptFrame` and no list (R114). -/
def Obligations.ExtractExact : Prop :=
  ∀ (es : List Entry) (thl plen : Nat) (payload : Bytes), payload.length = plen →
    ((∀ e ∈ es, e.len ≠ 0 → thl ≤ e.idx.toNat ∧ e.idx.toNat - thl + e.len.toNat ≤ plen) →
      extract es thl plen payload = .ok ((es.filter fun e => e.len != 0).map fun e =>
        slice payload (e.idx.toNat - thl) e.len.toNat)) ∧
    ((∃ e ∈ es, e.len ≠ 0 ∧ (e.idx.toNat < thl ∨ plen < e.idx.toNat - thl + e.len.toNat)) →
      extract es thl plen payload = .error .corruptFrame) ∧
    ∀ l, extract es thl plen payload = .ok l → ∀ b ∈ l, b ≠ []

/-- The layout of the form the Encoder emits, byte for byte, and its size (R81, R118). -/
def Obligations.EmittedFormLayout : Prop :=
  ∀ (cfg : Cfg) (s : U16) (frame : Bytes), frame.length ≤ 65505 →
    let b := ntb1 cfg s frame
    b.length = frame.length + 30 ∧ slice b 0 4 = le32 cfg.nthSig ∧ slice b 4 2 = [0x0C, 0] ∧ slice b 6 2 = le16 s ∧
    slice b 8 2 = le16 (BitVec.ofNat 16 (frame.length + 30)) ∧ slice b 10 2 = [0x0C, 0] ∧
    slice b 12 4 = le32 cfg.ndpSig ∧ slice b 16 2 = [0x10, 0] ∧ slice b 18 2 = [0, 0] ∧
    slice b 20 2 = [0x1E, 0] ∧ slice b 22 2 = le16 (BitVec.ofNat 16 frame.length) ∧
    slice b 24 4 = [0, 0, 0, 0] ∧ slice b 28 2 = [0, 0] ∧ b.drop 30 = frame ∧
    b = serNtb (ntb1Form cfg s frame)

/-- The round-trip law: what the Encoder builds is well-formed, and the length arithmetic and the
extraction, run on its parts, give back exactly the frame (R117). -/
def Obligations.NtbRoundTrip : Prop :=
  ∀ (cfg : Cfg) (s : U16) (frame : Bytes), frame.length ≤ 65505 → normalise cfg 16 = 16 →
    let b := ntb1 cfg s frame
    let h := parseNTH (slice b 0 12)
    let p := parseNDPF (slice b 12 8)
    let es := parseEntries (slice b 20 8)
    wellFormedNTB cfg b = true ∧
    ∃ thl plen, lengths h.hlen (normalise cfg p.lenRaw) h.blen es = .ok (thl, plen) ∧
      thl = 30 ∧ plen = frame.length ∧
      extract es thl plen (b.drop thl) = .ok (if frame.length = 0 then [] else [frame])

/-! ### The wire structures and the steps of the Decoder -/

/-- NTH with the right signature: 12 bytes are consumed, the five fields latched, S2 is next, and
nothing else changes (R71, R140). The model's own choices it rests on: log 15. -/
def Obligations.HeaderAccepted : Prop :=
  ∀ (s : State) (h : Nth), h.sig = s.dec.cfg.nthSig →
    ∃ t, exec (.nth h) s = .next t ∧ OnlyDec s t ∧
      t.dec = { s.dec with
        rxCount := s.dec.rxCount + 12
        rx := { s.dec.rx with
          stream := s.dec.rx.stream.drop 12, verdicts := s.dec.rx.verdicts.tail }
        work := { s.dec.work with nth := h }
        phase := .s2Ndpf }

/-- NTH with another signature, taken as a structure or by step S1 once its 12 bytes are there,
raises `MalformedHeader` with the 12 bytes consumed and the queue unchanged (R192). The model's own
choices it rests on: log 15. -/
def Obligations.HeaderRejected : Prop :=
  (∀ (s : State) (h : Nth), h.sig ≠ s.dec.cfg.nthSig →
    ∃ t, exec (.nth h) s = .next t ∧ OnlyDec s t ∧ Raised .malformedHeader 12 s.dec t.dec) ∧
  ∀ (s : State) (b : Bytes), rxPeek 12 s.dec = some b → (parseNTH b).sig ≠ s.dec.cfg.nthSig →
    ∃ t, exec .decS1 s = .next t ∧ OnlyDec s t ∧ Raised .malformedHeader 12 s.dec t.dec

/-- NDPF with the right signature: 8 bytes are consumed, the three fields latched, S3 is next, and
nothing else changes (R72, R141). The model's own choices it rests on: log 15. -/
def Obligations.PointerAccepted : Prop :=
  ∀ (s : State) (p : Ndpf), p.sig = s.dec.cfg.ndpSig →
    ∃ t, exec (.ndpf p) s = .next t ∧ OnlyDec s t ∧
      t.dec = { s.dec with
        rxCount := s.dec.rxCount + 8
        rx := { s.dec.rx with
          stream := s.dec.rx.stream.drop 8, verdicts := s.dec.rx.verdicts.tail }
        work := { s.dec.work with ndp := p }
        phase := .s3Norm }

/-- NDPF with another signature, taken as a structure or by step S2 once its 8 bytes are there,
raises `MalformedDatagramPointer`; after an NTH that makes 20 bytes of the NTB (R193). The model's
own choices it rests on: log 15. -/
def Obligations.PointerRejected : Prop :=
  (∀ (s : State) (p : Ndpf), p.sig ≠ s.dec.cfg.ndpSig →
    ∃ t, exec (.ndpf p) s = .next t ∧ OnlyDec s t ∧
      Raised .malformedDatagramPointer 8 s.dec t.dec) ∧
  (∀ (s : State) (b : Bytes), rxPeek 8 s.dec = some b → (parseNDPF b).sig ≠ s.dec.cfg.ndpSig →
    ∃ t, exec .decS2 s = .next t ∧ OnlyDec s t ∧
      Raised .malformedDatagramPointer 8 s.dec t.dec) ∧
  ∀ (s : State) (h : Nth) (p : Ndpf), h.sig = s.dec.cfg.nthSig → p.sig ≠ s.dec.cfg.ndpSig →
    ∃ t u, exec (.nth h) s = .next t ∧ exec (.ndpf p) t = .next u ∧ OnlyDec s u ∧
      Raised .malformedDatagramPointer 20 s.dec u.dec

/-- PAD of any value: two bytes are consumed and latched, S6 is next, and nothing else changes (R74,
R144). The model's own choices it rests on: log 15. -/
def Obligations.PadAcceptedWhateverValue : Prop :=
  ∀ (s : State) (b0 b1 : Byte),
    ∃ t, exec (.pad b0 b1) s = .next t ∧ OnlyDec s t ∧
      t.dec = { s.dec with
        rxCount := s.dec.rxCount + 2
        rx := { s.dec.rx with
          stream := s.dec.rx.stream.drop 2, verdicts := s.dec.rx.verdicts.tail }
        work := { s.dec.work with pad := (b0, b1) }
        phase := .s6Len }

/-- PAYLOAD of `plen` bytes: all are consumed and latched, the traversal of S8 starts with an empty
stage, and nothing else changes; an empty payload takes no transport call (R75, R146, R64, R22). The
model's own choices it rests on: logs 10, 15. -/
def Obligations.PayloadTakenWhole : Prop :=
  ∀ (s : State) (b : Bytes), b.length = s.dec.work.plen →
    ∃ t, exec (.payload b) s = .next t ∧ OnlyDec s t ∧
      t.dec = { s.dec with
        rxCount := s.dec.rxCount + b.length
        rx := { s.dec.rx with
          stream := s.dec.rx.stream.drop b.length
          verdicts := if b = [] then s.dec.rx.verdicts else s.dec.rx.verdicts.tail }
        work := { s.dec.work with payload := b, stage := [], slices := [], cursor := 0 }
        phase := .s8Extract }

/-- ENTRY_TERM and ENTRY_ZLEN are skipped alike: the traversal goes on to the next entry, and nothing
else changes, whatever `Index` is (R111, R79). The model's own choices it rests on: logs 10, 15. -/
def Obligations.SkippedEntriesContributeNothing : Prop :=
  ∀ (s : State) (idx : U16),
    ∃ t, exec .entryTerm s = .next t ∧ exec (.entryZlen idx) s = .next t ∧ OnlyDec s t ∧
      t.dec = { s.dec with
        work := { s.dec.work with cursor := s.dec.work.cursor + 1 }, phase := .s8Extract }

/-- ENTRY_LIVE in bounds: its slice, and only it, is staged, and the traversal goes on (R112, R114).
The payload buffer holds its `plen` bytes, as `InvariantKept` says it does in S8. The model's own
choices it rests on: logs 10, 15, 21. -/
def Obligations.LiveEntryStaged : Prop :=
  ∀ (s : State) (idx len : U16), len ≠ 0 → s.dec.work.payload.length = s.dec.work.plen →
    s.dec.work.thl ≤ idx.toNat → idx.toNat - s.dec.work.thl + len.toNat ≤ s.dec.work.plen →
    ∃ t b, exec (.entryLive idx len) s = .next t ∧ OnlyDec s t ∧
      b = slice s.dec.work.payload (idx.toNat - s.dec.work.thl) len.toNat ∧ b.length = len.toNat ∧
      t.dec = { s.dec with
        work := { s.dec.work with
          stage := s.dec.work.stage ++ b
          slices := s.dec.work.slices ++ [b]
          cursor := s.dec.work.cursor + 1 }
        phase := .s8Extract }

/-- ENTRY_LIVE out of bounds, before the payload or beyond its end, raises `CorruptFrame`; the queue
keeps its content and nothing more of RX is consumed (R112, R196). The model's own choices it rests
on: log 15. -/
def Obligations.LiveEntryOutOfBoundsRaises : Prop :=
  ∀ (s : State) (idx len : U16), len ≠ 0 →
    (idx.toNat < s.dec.work.thl ∨ s.dec.work.plen < idx.toNat - s.dec.work.thl + len.toNat) →
    ∃ t, exec (.entryLive idx len) s = .next t ∧ OnlyDec s t ∧ Raised .corruptFrame 0 s.dec t.dec

/-- The model's own stop (log 21): a live ENTRY_LIVE and DEC.S8 fault where the payload buffer lacks the bytes
that the bounds check admits. `InvariantSafe` says that no step from a state of the invariant does. -/
def Obligations.ShortPayloadBufferFaults : Prop :=
  (∀ s : State, s.dec.work.payload.length < s.dec.work.plen →
    exec .decS8 s = .fault .payloadOutOfRange) ∧
  ∀ (s : State) (idx len : U16), len ≠ 0 → s.dec.work.thl ≤ idx.toNat →
    idx.toNat - s.dec.work.thl + len.toNat ≤ s.dec.work.plen →
    s.dec.work.payload.length < idx.toNat - s.dec.work.thl + len.toNat →
    exec (.entryLive idx len) s = .fault .payloadOutOfRange

/-- Steps S1, S2, S4, S5 and S7 with the bytes they ask for at hand: the bytes are consumed, what
they hold is latched, the next phase is reached, and nothing else changes (R140, R141, R143, R144,
R146). The model's own choices it rests on: logs 8, 10. -/
def Obligations.ReadingStepsTakeTheirStructure : Prop :=
  ∀ (s : State) (n : Nat) (b : Bytes), rxPeek n s.dec = some b →
    let d := s.dec.rxAdvance n
    b = s.dec.rx.stream.take n ∧ b.length = n ∧
    (n = 12 → (parseNTH b).sig = s.dec.cfg.nthSig → exec .decS1 s = .next { s with
      dec := { d with work := { s.dec.work with nth := parseNTH b }, phase := .s2Ndpf } }) ∧
    (n = 8 → (parseNDPF b).sig = s.dec.cfg.ndpSig → exec .decS2 s = .next { s with
      dec := { d with work := { s.dec.work with ndp := parseNDPF b }, phase := .s3Norm } }) ∧
    (∀ c, entryCount s.dec.work.ndpLen = .ok c → c ≠ 0 → n = 4 * c → exec .decS4 s = .next { s with
      dec := { d with
        work := { s.dec.work with nEnt := c, ent := parseEntries b }, phase := .s5Pad } }) ∧
    (n = 2 → exec .decS5 s = .next { s with
      dec := { d with work := { s.dec.work with pad := (b.getD 0 0, b.getD 1 0) }, phase := .s6Len } }) ∧
    (n = s.dec.work.plen → n ≠ 0 → exec .decS7 s = .next { s with
      dec := { d with
        work := { s.dec.work with payload := b, stage := [], slices := [], cursor := 0 }
        phase := .s8Extract } })

/-- A read of zero bytes is never issued: S4 with a length of 8 and S7 with `plen` 0 take the empty
sequence and complete at once, whatever the transport would answer (R64). The model's own choices it
rests on: log 10. -/
def Obligations.ZeroLengthReadsNotIssued : Prop :=
  (∀ s : State, s.dec.work.ndpLen = 8 → exec .decS4 s = .next { s with
    dec := { s.dec with work := { s.dec.work with nEnt := 0, ent := [] }, phase := .s5Pad } }) ∧
  ∀ s : State, s.dec.work.plen = 0 → exec .decS7 s = .next { s with
    dec := { s.dec with
      work := { s.dec.work with payload := [], stage := [], slices := [], cursor := 0 }
      phase := .s8Extract } }

/-- A `Short` answer to any reading step, by the transport's decision or because the stream ended (with
no verdict or with `serve`), raises `TruncatedTransfer`; the bytes of the short answer, fewer than
asked for, are consumed and dropped (R194, R41). The model's own choices it rests on: logs 8, 25. -/
def Obligations.ShortReadTruncates : Prop :=
  ∀ (s : State) (i : Instr) (n : Nat), readsOf s.dec i = some n →
    (∀ k rest, s.dec.rx.verdicts = .short k :: rest →
      ∃ t, exec i s = .next t ∧ OnlyDec s t ∧
        Raised .truncatedTransfer (min (min k (n - 1)) s.dec.rx.stream.length) s.dec t.dec) ∧
    (Serving s.dec.rx → s.dec.rx.ended = true → s.dec.rx.stream.length < n →
      ∃ t, exec i s = .next t ∧ OnlyDec s t ∧
        Raised .truncatedTransfer s.dec.rx.stream.length s.dec t.dec)

/-- A `Fail` answer to any reading step raises `TransportError` with the transport's value; how many
bytes it had consumed is not stated, between none and all that were asked for (R197, R41, U6). The
model's own choices it rests on: logs 4, 8. -/
def Obligations.FailedReadRaises : Prop :=
  ∀ (s : State) (i : Instr) (n : Nat) (e : TransportErr) (rest : List RxVerdict),
    readsOf s.dec i = some n → s.dec.rx.verdicts = .fail e :: rest →
    ∃ t m, exec i s = .next t ∧ OnlyDec s t ∧ m ≤ n ∧ Raised (.transportError e) m s.dec t.dec

/-- A transport that does not answer holds its agent: nothing is consumed, delivered or raised, the
agent stands in the phase of the call, and it keeps what it has latched (R63); S4 has counted its
entries and ENC.WRITE has built its NTB before the call (R143, R170). A read is not answered under a `wait` verdict, or where
RX holds too few bytes and has not ended; a write under `wait`, or where no verdict is listed. The
model's own choices it rests on: log 8. -/
def Obligations.UnansweredCallsHold : Prop :=
  (∀ (s : State) (i : Instr) (n : Nat), readsOf s.dec i = some n →
    (∀ rest, s.dec.rx.verdicts = .wait :: rest →
      ∃ t, exec i s = .next t ∧ OnlyDec s t ∧ readsOf t.dec i = some n ∧
        Held i n s.dec t.dec ∧ t.dec.rx = { s.dec.rx with verdicts := rest }) ∧
    (Serving s.dec.rx → s.dec.rx.ended = false → s.dec.rx.stream.length < n →
      ∃ t, exec i s = .next t ∧ OnlyDec s t ∧ readsOf t.dec i = some n ∧
        Held i n s.dec t.dec ∧ t.dec.rx = s.dec.rx)) ∧
  ∀ (s : State) (frame : Bytes), s.enc.phase = .idle → frame.length ≤ 65505 →
    (s.enc.tx.verdicts = [] ∨ ∃ rest, s.enc.tx.verdicts = .wait :: rest) →
    ∃ t, exec (.encWrite frame) s = .next t ∧ OnlyEnc s t ∧
      t.enc = { s.enc with
        seq := s.enc.seq + 1
        txbuf := ntb1 s.enc.cfg s.enc.seq frame
        phase := .writing
        tx := { s.enc.tx with verdicts := s.enc.tx.verdicts.tail } }

/-- S3 writes the normalised length and nothing else, reads nothing from RX and cannot fail (R142). -/
def Obligations.NormalisationStep : Prop :=
  ∀ s : State, exec .decS3 s = .next { s with
    dec := { s.dec with
      work := { s.dec.work with ndpLen := normalise s.dec.cfg s.dec.work.ndp.lenRaw }
      phase := .s4Ent } }

/-- S4 on a length below 8, or not 8 plus a multiple of 4, raises `InconsistentLength` before the table
is read: nothing more is consumed, whatever the transport would answer (R143, R195 a). -/
def Obligations.TableLengthRejected : Prop :=
  ∀ s : State, (∀ n, s.dec.work.ndpLen.toNat ≠ 8 + 4 * n) →
    ∃ t, exec .decS4 s = .next t ∧ OnlyDec s t ∧ Raised .inconsistentLength 0 s.dec t.dec

/-- S6: consistent lengths are latched and S7 is next; `BlockLength` below the sum, or equal to it with a
live entry, raises `InconsistentLength`; nothing is read from RX (R145, R195 b and c). -/
def Obligations.LengthsStep : Prop :=
  ∀ s : State,
    let w := s.dec.work
    let thl := w.nth.hlen.toNat + w.ndpLen.toNat + 2
    (thl ≤ w.nth.blen.toNat → (w.nth.blen.toNat = thl → ∀ e ∈ w.ent, e.len = 0) →
      exec .decS6 s = .next { s with
        dec := { s.dec with
          work := { w with thl := thl, plen := w.nth.blen.toNat - thl }, phase := .s7Pay } }) ∧
    ((w.nth.blen.toNat < thl ∨ (w.nth.blen.toNat = thl ∧ ∃ e ∈ w.ent, e.len ≠ 0)) →
      ∃ t, exec .decS6 s = .next t ∧ OnlyDec s t ∧ Raised .inconsistentLength 0 s.dec t.dec)

/-- S8: with every live entry in bounds the slices are staged in table order; with one out of bounds
`CorruptFrame` is raised and nothing of the NTB is staged; nothing is read from RX (R147, R114). The
model's own choices it rests on: logs 10, 21. -/
def Obligations.TraversalStep : Prop :=
  ∀ s : State, s.dec.work.payload.length = s.dec.work.plen →
    let w := s.dec.work
    let slices := (w.ent.filter fun e => e.len != 0).map fun e =>
      slice w.payload (e.idx.toNat - w.thl) e.len.toNat
    ((∀ e ∈ w.ent, e.len ≠ 0 → w.thl ≤ e.idx.toNat ∧ e.idx.toNat - w.thl + e.len.toNat ≤ w.plen) →
      exec .decS8 s = .next { s with
        dec := { s.dec with
          work := { w with slices := slices, stage := slices.flatten, cursor := w.ent.length }
          phase := .s8Extract } }) ∧
    ((∃ e ∈ w.ent, e.len ≠ 0 ∧
        (e.idx.toNat < w.thl ∨ w.plen < e.idx.toNat - w.thl + e.len.toNat)) →
      ∃ t, exec .decS8 s = .next t ∧ OnlyDec s t ∧ Raised .corruptFrame 0 s.dec t.dec)

/-- The release: the whole stage enters the queue at its tail and the slices enter the log in one
step, where the capacity is unbounded or leaves room; else it is refused (R148, R53 a, U3). The
model's own choices it rests on: log 19. -/
def Obligations.ReleaseStep : Prop :=
  ∀ s : State,
    ((∀ c, s.dec.cfg.qCapacity = some c → s.dec.q.length + s.dec.work.stage.length ≤ c) →
      exec .decRelease s = .next { s with
        dec := { s.dec with
          q := s.dec.q ++ s.dec.work.stage
          framesLog := s.dec.framesLog ++ s.dec.work.slices
          phase := .s9Serve } }) ∧
    (∀ c, s.dec.cfg.qCapacity = some c → c < s.dec.q.length + s.dec.work.stage.length →
      exec .decRelease s = .refused .queueOverflow)

/-- S9 serves the outstanding read: `k = min(max, len(dec.q))` bytes leave the head of the queue for
the caller, the rest stays, and the operation ends (R149). The model's own choices it rests on: logs
7, 10. -/
def Obligations.ServeTakesFromHead : Prop :=
  ∀ (s : State) (max : Nat), s.dec.pend = some max →
    ∃ t out, exec .decS9 s = .next t ∧ OnlyDec s t ∧
      out.length = min max s.dec.q.length ∧ s.dec.q = out ++ t.dec.q ∧
      t.dec.answers = s.dec.answers ++ [.ok out] ∧ t.dec.pend = none ∧ t.dec.phase = .idle ∧
      t.dec.framesLog = s.dec.framesLog ∧ t.dec.fault = s.dec.fault ∧
      t.dec.rxCount = s.dec.rxCount ∧ t.dec.rx = s.dec.rx ∧ t.dec.cfg = s.dec.cfg ∧
      t.dec.reqs = s.dec.reqs

/-- Entry by entry is the whole traversal: from the start of S8 the machine's own steps, one entry each,
come to exactly what DEC.S8 does, whether it stages everything or raises (R114, R147, log 9). -/
def Obligations.EntryByEntryIsTraversal : Prop :=
  ∀ s : State, s.dec.phase = .s8Extract → s.dec.work.cursor = 0 → s.dec.work.stage = [] →
    s.dec.work.slices = [] → s.dec.work.payload.length = s.dec.work.plen →
    ∃ (m : Nat) (t : State), m ≤ s.dec.work.ent.length ∧ exec .decS8 s = .next t ∧
      Host.Core.run core m { s with sched := List.replicate m .dec } = .next { t with sched := [] }

/-! ### The operations -/

/-- DEC.NTB, on a transport that answers from a stream which then ends, is the big-step function of
the stream (R152, R134): on success the slices are released and S9 is next, on an error it is raised,
and the bytes the function counts are consumed. A finite queue must have room for the slices (U3).
The model's own choices it rests on: logs 8, 19, and log 27 in a phase other than IDLE. -/
def Obligations.DecodeNtbIsBigStep : Prop :=
  ∀ s : State, s.dec.rx.verdicts = [] → s.dec.rx.ended = true → ReleaseFits s.dec →
    ∃ t, exec .decNtb s = .next t ∧ OnlyDec s t ∧
      match bigStep s.dec.cfg s.dec.rx.stream with
      | (.ok slices, n) =>
        t.dec.phase = .s9Serve ∧ t.dec.q = s.dec.q ++ slices.flatten ∧
        t.dec.framesLog = s.dec.framesLog ++ slices ∧ t.dec.rxCount = s.dec.rxCount + n ∧
        t.dec.rx.stream = s.dec.rx.stream.drop n ∧ t.dec.fault = s.dec.fault ∧
        t.dec.answers = s.dec.answers ∧ t.dec.pend = s.dec.pend ∧ t.dec.cfg = s.dec.cfg ∧
        t.dec.reqs = s.dec.reqs
      | (.error k, n) => Raised k n s.dec t.dec

/-- The number of bytes a successfully decoded NTB takes is `BlockLength + 12 - HeaderLength` (R151,
R77). -/
def Obligations.SuccessAccounting : Prop :=
  ∀ (cfg : Cfg) (rx : Bytes) (slices : List Bytes) (n : Nat), bigStep cfg rx = (.ok slices, n) →
    n ≤ rx.length ∧
    n + (parseNTH (rx.take 12)).hlen.toNat = (parseNTH (rx.take 12)).blen.toNat + 12

/-- DEC.READ(max) of an idle Decoder whose queue holds at least `max` bytes: exactly `max` bytes from
the head, no NTB is decoded, RX and the working registers are not touched (R131, R132 a to c, R29).
The model's own choices it rests on: log 7. -/
def Obligations.ReadServedFromQueue : Prop :=
  ∀ (s : State) (max : Nat), s.dec.phase = .idle → max ≤ s.dec.q.length →
    ∃ t, exec (.decRead max) s = .next t ∧ OnlyDec s t ∧
      t.dec = { s.dec with
        q := s.dec.q.drop max
        answers := s.dec.answers ++ [.ok (s.dec.q.take max)]
        pend := none }

/-- DEC.READ(max) of an idle Decoder whose queue is shorter: exactly one NTB is decoded first. On
success the caller gets the first `min(max, ..)` bytes of the old queue followed by the new frames;
on an error it gets `Err(K)`, no bytes, and the queue stays (R131, R132 d to g, R200). A finite queue
must have room for the new frames (U3). The model's own choices it rests on: logs 7, 8, 19. -/
def Obligations.ReadDecodesOneNtb : Prop :=
  ∀ (s : State) (max : Nat), s.dec.phase = .idle → s.dec.q.length < max →
    s.dec.rx.verdicts = [] → s.dec.rx.ended = true → ReleaseFits s.dec →
    ∃ t, exec (.decRead max) s = .next t ∧ OnlyDec s t ∧
      match bigStep s.dec.cfg s.dec.rx.stream with
      | (.ok slices, n) =>
        t.dec.answers = s.dec.answers ++ [.ok ((s.dec.q ++ slices.flatten).take max)] ∧
        t.dec.q = (s.dec.q ++ slices.flatten).drop max ∧
        t.dec.framesLog = s.dec.framesLog ++ slices ∧ t.dec.rxCount = s.dec.rxCount + n ∧
        t.dec.rx.stream = s.dec.rx.stream.drop n ∧ t.dec.fault = s.dec.fault ∧
        t.dec.phase = .idle ∧ t.dec.pend = none ∧ t.dec.cfg = s.dec.cfg ∧ t.dec.reqs = s.dec.reqs
      | (.error k, n) => Raised k n { s.dec with pend := some max } t.dec

/-- The quirk law: two decodings whose streams differ only in the NDP `Length`, 0x8C in one and 0x3C
in the other, end alike: same bytes consumed, same result, same error (R119). Both signatures match,
so that both reach S3. The model's own choices it rests on: log 8. -/
def Obligations.QuirkLaw : Prop :=
  ∀ (s : State) (max : Nat) (head rest : Bytes), head.length = 16 →
    s.dec.cfg.quirks = [(0x008C, 0x003C)] → s.dec.phase = .idle → s.dec.q.length < max →
    s.dec.rx.verdicts = [] → s.dec.rx.ended = true → 2 ≤ rest.length →
    u32At head 0 = s.dec.cfg.nthSig → u32At head 12 = s.dec.cfg.ndpSig →
    let onStream (b : Bytes) : State :=
      { s with dec := { s.dec with rx := { s.dec.rx with stream := b } } }
    exec (.decRead max) (onStream (head ++ [0x8C, 0] ++ rest)) =
      exec (.decRead max) (onStream (head ++ [0x3C, 0] ++ rest))

/-- A request while one of its direction is outstanding, and RESET of a direction with an operation
outstanding, are refused (U8, U9, R231, R240). The model's own choices it rests on: log 20. -/
def Obligations.OutstandingOperationsRefuse : Prop :=
  (∀ (s : State) (max : Nat), s.dec.phase ≠ .idle →
    exec (.decRead max) s = .refused .requestWhileBusy) ∧
  (∀ (s : State) (frame : Bytes), s.enc.phase ≠ .idle →
    exec (.encWrite frame) s = .refused .requestWhileBusy) ∧
  (∀ (s : State) (rx : RxLine) (cfg : Cfg), s.dec.phase ≠ .idle →
    exec (.reset (.dec rx) cfg) s = .refused .resetWhileBusy) ∧
  ∀ (s : State) (v : List TxVerdict) (cfg : Cfg), s.enc.phase ≠ .idle →
    exec (.reset (.enc v) cfg) s = .refused .resetWhileBusy

/-- ENC.WRITE on a transport that accepts: the whole NTB with the counter's value goes to TX in one
write and into the log, the counter counts up modulo 65536, the caller gets `Ok`; the status, the
configuration and the Decoder stay (R170 to R173). The model's own choices it rests on: logs 7, 8. -/
def Obligations.WriteDelivers : Prop :=
  ∀ (s : State) (frame : Bytes) (rest : List TxVerdict), s.enc.phase = .idle →
    frame.length ≤ 65505 → s.enc.tx.verdicts = .done :: rest →
    ∃ t, exec (.encWrite frame) s = .next t ∧ OnlyEnc s t ∧
      t.enc.seq.toNat = (s.enc.seq.toNat + 1) % 65536 ∧
      t.enc.tx = ⟨s.enc.tx.sent ++ ntb1 s.enc.cfg s.enc.seq frame, rest⟩ ∧
      t.enc.txLog = s.enc.txLog ++ [ntb1 s.enc.cfg s.enc.seq frame] ∧
      t.enc.answers = s.enc.answers ++ [.ok] ∧ t.enc.phase = .idle ∧
      t.enc.fault = s.enc.fault ∧ t.enc.cfg = s.enc.cfg ∧ t.enc.reqs = s.enc.reqs

/-- ENC.WRITE on a transport that fails: the caller gets `TransportError` with the transport's value,
the status sticks, the counter keeps its increment, nothing is logged, one write was made, and some
prefix of the NTB reached the peer (R174, R172, R200, U7). The model's own choices it rests on: logs
5, 7, 8. -/
def Obligations.FailedWriteRaises : Prop :=
  ∀ (s : State) (frame : Bytes) (e : TransportErr) (rest : List TxVerdict), s.enc.phase = .idle →
    frame.length ≤ 65505 → s.enc.tx.verdicts = .fail e :: rest →
    ∃ t m, exec (.encWrite frame) s = .next t ∧ OnlyEnc s t ∧
      t.enc.seq.toNat = (s.enc.seq.toNat + 1) % 65536 ∧
      t.enc.tx = ⟨s.enc.tx.sent ++ (ntb1 s.enc.cfg s.enc.seq frame).take m, rest⟩ ∧
      t.enc.txLog = s.enc.txLog ∧ t.enc.answers = s.enc.answers ++ [.err e] ∧
      t.enc.phase = .idle ∧ t.enc.fault = .transportError ∧ t.enc.cfg = s.enc.cfg ∧
      t.enc.reqs = s.enc.reqs

/-- NTB1: the head and the frame bytes behind it in the assembly buffer are handed to TX in one write
(R81, R173). Accepted, they reach the peer and the log, and the caller gets `Ok`; failed, some prefix
of them reached the peer, nothing is logged, the status sticks and the caller gets the transport's
value (R174, R200, U7); not answered, the Encoder stays blocked with the buffer (R63). The counter, the
configuration and the Decoder stay. The model's own choices it rests on: logs 5, 7, 8, 16, and log 28
for a head whose lengths are not those of the frame bytes. -/
def Obligations.EmissionHandsOver : Prop :=
  ∀ (s : State) (seq blen elen : U16),
    let b := ntb1Head s.enc.cfg seq blen elen ++ s.enc.txbuf.drop 30
    (∀ rest, s.enc.tx.verdicts = .done :: rest →
      ∃ t, exec (.ntb1 seq blen elen) s = .next t ∧ OnlyEnc s t ∧
        t.enc.tx = ⟨s.enc.tx.sent ++ b, rest⟩ ∧ t.enc.txLog = s.enc.txLog ++ [b] ∧
        t.enc.answers = s.enc.answers ++ [.ok] ∧ t.enc.phase = .idle ∧ t.enc.seq = s.enc.seq ∧
        t.enc.fault = s.enc.fault ∧ t.enc.cfg = s.enc.cfg ∧ t.enc.reqs = s.enc.reqs) ∧
    (∀ e rest, s.enc.tx.verdicts = .fail e :: rest →
      ∃ t m, exec (.ntb1 seq blen elen) s = .next t ∧ OnlyEnc s t ∧
        t.enc.tx = ⟨s.enc.tx.sent ++ b.take m, rest⟩ ∧ t.enc.txLog = s.enc.txLog ∧
        t.enc.answers = s.enc.answers ++ [.err e] ∧ t.enc.phase = .idle ∧ t.enc.seq = s.enc.seq ∧
        t.enc.fault = .transportError ∧ t.enc.cfg = s.enc.cfg ∧ t.enc.reqs = s.enc.reqs) ∧
    ((s.enc.tx.verdicts = [] ∨ ∃ rest, s.enc.tx.verdicts = .wait :: rest) →
      exec (.ntb1 seq blen elen) s = .next { s with
        enc := { s.enc with
          txbuf := b
          phase := .writing
          tx := { s.enc.tx with verdicts := s.enc.tx.verdicts.tail } } })

/-- RESET of an idle direction: every value R230 gives, the transport it is bound to, and nothing of
the other direction (R230, R231). What the working registers hold afterwards is unspecified. The
model's own choices it rests on: logs 7, 12. -/
def Obligations.ResetCreatesOneDirection : Prop :=
  (∀ (s : State) (rx : RxLine) (cfg : Cfg), s.dec.phase = .idle →
    ∃ t, exec (.reset (.dec rx) cfg) s = .next t ∧ OnlyDec s t ∧
      t.dec.cfg = cfg ∧ t.dec.q = [] ∧ t.dec.fault = .none ∧ t.dec.phase = .idle ∧
      t.dec.rxCount = 0 ∧ t.dec.framesLog = [] ∧ t.dec.pend = none ∧ t.dec.rx = rx ∧
      t.dec.reqs = s.dec.reqs) ∧
  ∀ (s : State) (v : List TxVerdict) (cfg : Cfg), s.enc.phase = .idle →
    ∃ t, exec (.reset (.enc v) cfg) s = .next t ∧ OnlyEnc s t ∧
      t.enc.cfg = cfg ∧ t.enc.seq = cfg.seqInit ∧ t.enc.fault = .none ∧ t.enc.phase = .idle ∧
      t.enc.txLog = [] ∧ t.enc.tx.verdicts = v ∧ t.enc.reqs = s.enc.reqs

/-- Every function of the shared traversal unit, in its domain, returns its result and touches no
state of the block; one that raises returns the kind (R100 to R115). The model's own choices it rests
on: log 13. -/
def Obligations.FunctionsReturnResults : Prop :=
  ∀ s : State,
    (∀ b : Bytes, b.length = 12 →
      exec (.parseNTH b) s = .next { s with
        unit := .nth ⟨u32At b 0, u16At b 4, u16At b 6, u16At b 8, u16At b 10⟩ }) ∧
    (∀ h, exec (.serNTH h) s = .next { s with unit := .bytes (le32 h.sig ++ le16 h.hlen ++
      le16 h.seq ++ le16 h.blen ++ le16 h.ndpidx) }) ∧
    (∀ b : Bytes, b.length = 8 →
      exec (.parseNDPF b) s = .next { s with unit := .ndpf ⟨u32At b 0, u16At b 4, u16At b 6⟩ }) ∧
    (∀ p, exec (.serNDPF p) s = .next { s with
      unit := .bytes (le32 p.sig ++ le16 p.lenRaw ++ le16 p.next) }) ∧
    (∀ t : Bytes, t.length % 4 = 0 →
      ∃ es, exec (.parseEntries t) s = .next { s with unit := .entries es } ∧
        es.length = t.length / 4 ∧ serEntries es = t) ∧
    (∀ es, exec (.serEntries es) s = .next { s with
      unit := .bytes (es.map fun e => le16 e.idx ++ le16 e.len).flatten }) ∧
    (∀ cfg v, exec (.normalise cfg v) s = .next { s with unit := .u16 (normalise cfg v) }) ∧
    (∀ l, exec (.entryCount l) s = .next { s with
      unit := if 8 ≤ l.toNat ∧ (l.toNat - 8) % 4 = 0 then .nat ((l.toNat - 8) / 4)
        else .raised .inconsistentLength }) ∧
    (∀ hlen ndplen blen es, exec (.lengths hlen ndplen blen es) s = .next { s with
      unit := if blen.toNat < hlen.toNat + ndplen.toNat + 2 ∨
          (blen.toNat = hlen.toNat + ndplen.toNat + 2 ∧ ∃ e ∈ es, e.len ≠ 0)
        then .raised .inconsistentLength
        else .lengths (hlen.toNat + ndplen.toNat + 2)
          (blen.toNat - (hlen.toNat + ndplen.toNat + 2)) }) ∧
    (∀ e, exec (.isSkipped e) s = .next { s with unit := .bool (e.len == 0) }) ∧
    (∀ e thl plen, e.len ≠ 0 → exec (.translate e thl plen) s = .next { s with
      unit := if thl ≤ e.idx.toNat ∧ e.idx.toNat - thl + e.len.toNat ≤ plen
        then .nat (e.idx.toNat - thl) else .raised .corruptFrame }) ∧
    (∀ (es : List Entry) (thl plen : Nat) (pay : Bytes), pay.length = plen →
      exec (.extract es thl plen pay) s = .next { s with
        unit := if ∀ e ∈ es, e.len ≠ 0 → thl ≤ e.idx.toNat ∧ e.idx.toNat - thl + e.len.toNat ≤ plen
          then .slices ((es.filter fun e => e.len != 0).map fun e =>
            slice pay (e.idx.toNat - thl) e.len.toNat)
          else .raised .corruptFrame }) ∧
    ∀ (cfg : Cfg) (n : U16) (frame : Bytes), frame.length ≤ 65505 →
      exec (.ntb1Build cfg n frame) s = .next { s with
        unit := .bytes (serNtb (ntb1Form cfg n frame)) }

/-- An operand outside its rule's domain is refused, with no effect: a frame over 65505 bytes (R170,
U1), an input whose length is not the one R101, R103, R104 and R114 state, a payload region of
another length than `plen` (R75; log 14). The model's own choices it rests on: log 20. -/
def Obligations.OutsideDomainRefused : Prop :=
  ∀ s : State,
    (∀ frame : Bytes, s.enc.phase = .idle → 65505 < frame.length →
      exec (.encWrite frame) s = .refused .frameTooLong) ∧
    (∀ cfg n (frame : Bytes), 65505 < frame.length →
      exec (.ntb1Build cfg n frame) s = .refused .frameTooLong) ∧
    (∀ b : Bytes, b.length ≠ 12 → exec (.parseNTH b) s = .refused .outsideDomain) ∧
    (∀ b : Bytes, b.length ≠ 8 → exec (.parseNDPF b) s = .refused .outsideDomain) ∧
    (∀ t : Bytes, t.length % 4 ≠ 0 → exec (.parseEntries t) s = .refused .outsideDomain) ∧
    (∀ es thl plen (pay : Bytes), pay.length ≠ plen →
      exec (.extract es thl plen pay) s = .refused .outsideDomain) ∧
    ∀ b : Bytes, b.length ≠ s.dec.work.plen → exec (.payload b) s = .refused .outsideDomain

/-! ### Rules of the whole machine -/

/-- A recorded fault stays: no instruction but RESET changes a status that is not `None` (R13, R25). -/
def Obligations.FaultStatusSticks : Prop :=
  ∀ (i : Instr) (s t : State), exec i s = .next t → isReset i = false →
    (s.dec.fault ≠ .none → t.dec.fault = s.dec.fault) ∧
    (s.enc.fault ≠ .none → t.enc.fault = s.enc.fault)

/-- The configuration is written by RESET only, and the sequence counter by ENC.WRITE and RESET only
(D21, R24). -/
def Obligations.ConfigurationAndCounterWriters : Prop :=
  ∀ (i : Instr) (s t : State), exec i s = .next t → isReset i = false →
    t.dec.cfg = s.dec.cfg ∧ t.enc.cfg = s.enc.cfg ∧
    ((∀ frame, i ≠ .encWrite frame) → t.enc.seq = s.enc.seq)

/-- No Decoder operation touches Encoder state and no Encoder operation touches Decoder state; the
functions touch neither (R29, R100). -/
def Obligations.DirectionsIsolated : Prop :=
  ∀ (i : Instr) (s t : State), exec i s = .next t →
    (agentOf i ≠ some .enc → t.enc = s.enc) ∧ (agentOf i ≠ some .dec → t.dec = s.dec) ∧
    t.sched = s.sched

/-- The two directions are independent: two moves, one of each agent, give the same state in either
order (R58, R213). The model's own choices it rests on: log 6. -/
def Obligations.DirectionsCommute : Prop :=
  ∀ s t u : State, turn .dec s = .next t → turn .enc s = .next u →
    ∃ v, turn .enc t = .next v ∧ turn .dec u = .next v

/-- Bytes of RX are consumed in order, each once, and the cursor counts exactly those: no instruction
but RESET moves it back, skips a byte or counts one that was not there (R15, R41, R54). A wire structure
given to `exec` must have its bytes in RX (log 15); the machine's own steps need no such premise. -/
def Obligations.InboundConsumedInOrder : Prop :=
  (∀ (i : Instr) (s t : State), exec i s = .next t → isReset i = false →
    rxTaken i ≤ s.dec.rx.stream.length →
    ∃ n, n ≤ s.dec.rx.stream.length ∧ t.dec.rxCount = s.dec.rxCount + n ∧
      t.dec.rx.stream = s.dec.rx.stream.drop n) ∧
  ∀ s t : State, step s = .next t →
    (s.dec.phase = .idle → ∀ cfg rx rest, s.dec.reqs ≠ .reset cfg rx :: rest) →
    ∃ n, n ≤ s.dec.rx.stream.length ∧ t.dec.rxCount = s.dec.rxCount + n ∧
      t.dec.rx.stream = s.dec.rx.stream.drop n

/-- The queue grows at its tail by releases only, and leaves from its head: an instruction that does not
release can only take bytes from its head (R148, R49). RESET empties it. -/
def Obligations.QueueGrowsOnlyByRelease : Prop :=
  ∀ (i : Instr) (s t : State), exec i s = .next t → i ≠ .decRelease → i ≠ .decNtb →
    (∀ max, i ≠ .decRead max) → ∃ out, s.dec.q = out ++ t.dec.q

/-- The invariant holds right after reset. The model's own choices it rests on: logs 2, 26. -/
def Obligations.InvariantAtReset : Prop := Invariant State.reset

/-- Every step keeps the invariant, from every state that has it: what was delivered and what is
queued are what was released, in order, without gap or duplication (R23, R56); the statuses are those
of the first errors (R13, R25); the working registers have passed the checks of the steps before
their phase (R134); the counter has counted the NTBs constructed (R172, R211); whole NTBs only go out
(R173). The model's own choices it rests on: logs 7, 9, 10. -/
def Obligations.InvariantKept : Prop :=
  ∀ s t : State, Invariant s → step s = .next t → Invariant t

/-- From every state of the invariant the step reads nothing out of bounds, and it is refused only
for a queue overflow or a frame that is too long (R196, R47, U1, U3). The model's own choices it
rests on: logs 16, 21. -/
def Obligations.InvariantSafe : Prop :=
  ∀ s : State, Invariant s → Safe s ∧
    ∀ r, step s = .refused r → r = .queueOverflow ∨ r = .frameTooLong

/-- A step runs the decoded instruction: with an agent scheduled, the step is `exec` of the instruction
that the decoder reads where that agent takes its next structure, in the state without that turn
(R78, R133). The model's own choices it rests on: the schedule, and that nothing happens without one,
log 6; the Decoder's resumption, log 9; that a blocked Encoder goes on with the NTB in its buffer, log
16, told by its fixed bytes, log 28. -/
def Obligations.StepRunsDecodedInstruction : Prop :=
  (∀ s : State, s.sched = [] → step s = .next s) ∧
  (∀ (s : State) (pos : Pos) (b : Bytes) (i : Instr) (after : Bytes) (rest : List Agent),
    s.sched = .dec :: rest →
    ((s.dec.phase = .s1Nth ∧ pos = .nth) ∨ (s.dec.phase = .s2Ndpf ∧ pos = .ndpf) ∨
      (s.dec.phase = .s5Pad ∧ pos = .pad) ∨
      (s.dec.phase = .s7Pay ∧ pos = .payload s.dec.work.plen ∧ s.dec.work.plen ≠ 0)) →
    rxPeek pos.size s.dec = some b → decode s.dec.cfg pos b = .ok (i, after) →
    step s = exec i { s with sched := rest }) ∧
  (∀ (s : State) (e : Entry) (i : Instr) (after : Bytes) (rest : List Agent),
    s.sched = .dec :: rest → s.dec.phase = .s8Extract →
    s.dec.work.ent[s.dec.work.cursor]? = some e →
    decode s.dec.cfg .entry (serEntry e) = .ok (i, after) →
    step s = exec i { s with sched := rest }) ∧
  ∀ (s : State) (i : Instr) (after : Bytes) (rest : List Agent),
    s.sched = .enc :: rest → s.enc.phase = .writing →
    decode s.enc.cfg .ntb1 s.enc.txbuf = .ok (i, after) →
    step s = exec i { s with sched := rest }

/-- What else a step runs: an idle agent takes its caller's next request out of the list and runs it,
or has none and waits; a Decoder in a phase without a structure at hand runs the phase's step, and the
release after the last entry (R230, R133). The model's own choices it rests on: the schedule, log 6;
the list of requests and its next one, log 7; the Decoder's resumption, log 9. -/
def Obligations.StepRunsRequestsAndPhases : Prop :=
  (∀ (s : State) (rest : List Agent), s.sched = .dec :: rest → s.dec.phase = .idle →
    (s.dec.reqs = [] → step s = .next { s with sched := rest }) ∧
    (∀ max reqs, s.dec.reqs = .read max :: reqs →
      step s = exec (.decRead max) { s with sched := rest, dec := { s.dec with reqs := reqs } }) ∧
    ∀ cfg rx reqs, s.dec.reqs = .reset cfg rx :: reqs →
      step s = exec (.reset (.dec rx) cfg)
        { s with sched := rest, dec := { s.dec with reqs := reqs } }) ∧
  (∀ (s : State) (rest : List Agent), s.sched = .enc :: rest → s.enc.phase = .idle →
    (s.enc.reqs = [] → step s = .next { s with sched := rest }) ∧
    (∀ frame reqs, s.enc.reqs = .write frame :: reqs →
      step s = exec (.encWrite frame)
        { s with sched := rest, enc := { s.enc with reqs := reqs } }) ∧
    ∀ cfg v reqs, s.enc.reqs = .reset cfg v :: reqs →
      step s = exec (.reset (.enc v) cfg)
        { s with sched := rest, enc := { s.enc with reqs := reqs } }) ∧
  ∀ (s : State) (rest : List Agent), s.sched = .dec :: rest →
    (s.dec.phase = .s1Nth → rxPeek 12 s.dec = none → step s = exec .decS1 { s with sched := rest }) ∧
    (s.dec.phase = .s2Ndpf → rxPeek 8 s.dec = none → step s = exec .decS2 { s with sched := rest }) ∧
    (s.dec.phase = .s3Norm → step s = exec .decS3 { s with sched := rest }) ∧
    (s.dec.phase = .s4Ent → step s = exec .decS4 { s with sched := rest }) ∧
    (s.dec.phase = .s5Pad → rxPeek 2 s.dec = none → step s = exec .decS5 { s with sched := rest }) ∧
    (s.dec.phase = .s6Len → step s = exec .decS6 { s with sched := rest }) ∧
    (s.dec.phase = .s7Pay → s.dec.work.plen = 0 ∨ rxPeek s.dec.work.plen s.dec = none →
      step s = exec .decS7 { s with sched := rest }) ∧
    (s.dec.phase = .s8Extract → s.dec.work.ent.length ≤ s.dec.work.cursor →
      step s = exec .decRelease { s with sched := rest }) ∧
    (s.dec.phase = .s9Serve → step s = exec .decS9 { s with sched := rest })

/-- The stream law, encoding half: `n` writes on a transport that accepts them all send the NTBs of
the frames with consecutive sequence numbers from the counter's value on, in order and contiguous,
and the counter ends `n` further modulo 65536 (R177, R57). The model's own choices it rests on: logs
6, 7, 8. -/
def Obligations.StreamLawEncoding : Prop :=
  ∀ (s : State) (frames : List Bytes), s.enc.phase = .idle → (∀ f ∈ frames, f.length ≤ 65505) →
    s.enc.reqs = frames.map .write → s.enc.tx.verdicts = List.replicate frames.length .done →
    s.sched = List.replicate frames.length .enc →
    ∃ t, Host.Core.run core frames.length s = .next t ∧ t.dec = s.dec ∧
      t.enc.txLog = s.enc.txLog ++ ntbStream s.enc.cfg s.enc.seq frames ∧
      t.enc.tx.sent = s.enc.tx.sent ++ (ntbStream s.enc.cfg s.enc.seq frames).flatten ∧
      ((ntbStream s.enc.cfg s.enc.seq frames).flatten).length =
        30 * frames.length + frames.flatten.length ∧
      t.enc.seq = s.enc.seq + BitVec.ofNat 16 frames.length ∧
      t.enc.answers = s.enc.answers ++ List.replicate frames.length .ok

/-- The stream law, decoding half: a Decoder with an empty queue, fed the NTBs of the frames, yields
each frame to one read, whatever positive `max` not below the frame's length it asks for, in order,
and nothing else (R177, R117). The model's own choices it rests on: logs 6, 7, 8. -/
def Obligations.StreamLawDecoding : Prop :=
  ∀ (s : State) (reads : List (Bytes × Nat)) (n : U16), s.dec.phase = .idle → s.dec.q = [] →
    normalise s.dec.cfg 16 = 16 → s.dec.cfg.qCapacity = none →
    (∀ r ∈ reads, r.1.length ≤ 65505 ∧ r.1.length ≤ r.2 ∧ 0 < r.2) →
    s.dec.rx = ⟨(ntbStream s.dec.cfg n (reads.map Prod.fst)).flatten, true, []⟩ →
    s.dec.reqs = reads.map (fun r => .read r.2) → s.sched = List.replicate reads.length .dec →
    ∃ t, Host.Core.run core reads.length s = .next t ∧ t.enc = s.enc ∧
      t.dec.answers = s.dec.answers ++ reads.map (fun r => .ok r.1) ∧ t.dec.q = [] ∧
      t.dec.rx.stream = [] ∧ t.dec.fault = s.dec.fault ∧
      t.dec.rxCount = s.dec.rxCount + 30 * reads.length + (reads.map Prod.fst).flatten.length
end

