-- ==== Sys2Proof/Laws/Bytes.lean ====
section
/-! SUPPORT. Byte order: packing and unpacking of the two integer widths are inverse (R50). -/

namespace Sys2Proof

/-- `LE16(le16(v)) = v` (`00_scope.md` section 6), in the form simp brings the bytes to. -/
@[simp] theorem le16Of_bytes (v : U16) :
    le16Of (v.setWidth 8) (BitVec.ofNat 8 (v.toNat / 256)) = v := by
  apply BitVec.eq_of_toNat_eq
  simp [le16Of]
  omega

/-- `LE32(le32(v)) = v` (`00_scope.md` section 6), in the form simp brings the bytes to. -/
@[simp] theorem le32Of_bytes (v : U32) :
    le32Of (v.setWidth 8) (BitVec.ofNat 8 (v.toNat / 256)) (BitVec.ofNat 8 (v.toNat / 65536))
      (BitVec.ofNat 8 (v.toNat / 16777216)) = v := by
  apply BitVec.eq_of_toNat_eq
  simp [le32Of]
  omega

/-- The two bytes of a number made of two bytes. -/
@[simp] theorem le16_le16Of (a b : Byte) : le16 (le16Of a b) = [a, b] := by
  simp only [le16, le16Of, List.cons.injEq, and_true]
  constructor <;> apply BitVec.eq_of_toNat_eq <;> simp <;> omega

/-- The four bytes of a number made of four bytes. -/
@[simp] theorem le32_le32Of (a b c d : Byte) : le32 (le32Of a b c d) = [a, b, c, d] := by
  simp only [le32, le32Of, List.cons.injEq, and_true]
  refine ⟨?_, ?_, ?_, ?_⟩ <;> apply BitVec.eq_of_toNat_eq <;> simp <;> omega

@[simp] theorem le16_length (v : U16) : (le16 v).length = 2 := rfl
@[simp] theorem le32_length (v : U32) : (le32 v).length = 4 := rfl
@[simp] theorem serNTH_length (h : Nth) : (serNTH h).length = 12 := rfl
@[simp] theorem serNDPF_length (p : Ndpf) : (serNDPF p).length = 8 := rfl
@[simp] theorem serEntry_length (e : Entry) : (serEntry e).length = 4 := rfl

/-- The table of `n` entries has `4n` bytes (R73). -/
@[simp] theorem serEntries_length (es : List Entry) : (serEntries es).length = 4 * es.length := by
  induction es with
  | nil => rfl
  | cons e es ih => simp [serEntries, ih]; omega

/-- The head of the emitted form has 30 bytes (R81). -/
@[simp] theorem ntb1Head_length (cfg : Cfg) (seq blen elen : U16) :
    (ntb1Head cfg seq blen elen).length = 30 := by
  simp [ntb1Head, zeros, Config.padLen]

/-- An entry stands in the table in its own class (R79). -/
theorem classify_cases (e : Entry) :
    (e.len = 0 ∧ e.idx = 0 ∧ classify e = .entryTerm) ∨
    (e.len = 0 ∧ e.idx ≠ 0 ∧ classify e = .entryZlen e.idx) ∨
    (e.len ≠ 0 ∧ classify e = .entryLive e.idx e.len) := by
  unfold classify
  by_cases hl : e.len = 0
  · by_cases hi : e.idx = 0
    · exact .inl ⟨hl, hi, by rw [if_pos hl, if_pos hi]⟩
    · exact .inr (.inl ⟨hl, hi, by rw [if_pos hl, if_neg hi]⟩)
  · exact .inr (.inr ⟨hl, by rw [if_neg hl]⟩)

/-- The bytes of one entry decode to its class (R73, R79). -/
theorem decode_serEntry (cfg : Cfg) (e : Entry) :
    decode cfg .entry (serEntry e) = .ok (classify e, []) := by
  simp [decode, Pos.size, Config.entryLen, decodeAt, serEntry, le16, parseEntry, u16At]

end Sys2Proof
end

