-- ==== Sys2Proof/Laws/State.lean ====
section
/-! SUPPORT. What each shared update of the state leaves and writes, field by field. -/

namespace Sys2Proof.Machine

/-! ### The inbound cursor (`DecState.rxAdvance`) -/

@[simp] theorem DecState.rxAdvance_cfg (n : Nat) (d : DecState) : (d.rxAdvance n).cfg = d.cfg := rfl

@[simp] theorem DecState.rxAdvance_q (n : Nat) (d : DecState) : (d.rxAdvance n).q = d.q := rfl

@[simp] theorem DecState.rxAdvance_fault (n : Nat) (d : DecState) : (d.rxAdvance n).fault = d.fault := rfl

@[simp] theorem DecState.rxAdvance_phase (n : Nat) (d : DecState) : (d.rxAdvance n).phase = d.phase := rfl

@[simp] theorem DecState.rxAdvance_framesLog (n : Nat) (d : DecState) :
    (d.rxAdvance n).framesLog = d.framesLog := rfl

@[simp] theorem DecState.rxAdvance_work (n : Nat) (d : DecState) : (d.rxAdvance n).work = d.work := rfl

@[simp] theorem DecState.rxAdvance_pend (n : Nat) (d : DecState) : (d.rxAdvance n).pend = d.pend := rfl

@[simp] theorem DecState.rxAdvance_answers (n : Nat) (d : DecState) :
    (d.rxAdvance n).answers = d.answers := rfl

@[simp] theorem DecState.rxAdvance_reqs (n : Nat) (d : DecState) : (d.rxAdvance n).reqs = d.reqs := rfl

@[simp] theorem DecState.rxAdvance_draws (n : Nat) (d : DecState) : (d.rxAdvance n).draws = d.draws := rfl

@[simp] theorem DecState.rxAdvance_rxCount (n : Nat) (d : DecState) :
    (d.rxAdvance n).rxCount = d.rxCount + n := rfl

@[simp] theorem DecState.rxAdvance_stream (n : Nat) (d : DecState) :
    (d.rxAdvance n).rx.stream = d.rx.stream.drop n := rfl

@[simp] theorem DecState.rxAdvance_ended (n : Nat) (d : DecState) :
    (d.rxAdvance n).rx.ended = d.rx.ended := rfl

@[simp] theorem DecState.rxAdvance_verdicts (n : Nat) (d : DecState) :
    (d.rxAdvance n).rx.verdicts = d.rx.verdicts.tail := rfl


/-! ### The end of an operation (`DecState.retire`, `EncState.retire`) -/

@[simp] theorem DecState.retire_cfg (d : DecState) : d.retire.cfg = d.cfg := rfl

@[simp] theorem DecState.retire_q (d : DecState) : d.retire.q = d.q := rfl

@[simp] theorem DecState.retire_fault (d : DecState) : d.retire.fault = d.fault := rfl

@[simp] theorem DecState.retire_phase (d : DecState) : d.retire.phase = d.phase := rfl

@[simp] theorem DecState.retire_rxCount (d : DecState) : d.retire.rxCount = d.rxCount := rfl

@[simp] theorem DecState.retire_framesLog (d : DecState) : d.retire.framesLog = d.framesLog := rfl

@[simp] theorem DecState.retire_pend (d : DecState) : d.retire.pend = d.pend := rfl

@[simp] theorem DecState.retire_answers (d : DecState) : d.retire.answers = d.answers := rfl

@[simp] theorem DecState.retire_reqs (d : DecState) : d.retire.reqs = d.reqs := rfl

@[simp] theorem DecState.retire_rx (d : DecState) : d.retire.rx = d.rx := rfl

@[simp] theorem DecState.retire_draws (d : DecState) : d.retire.draws = d.draws + 1 := rfl

@[simp] theorem EncState.retire_cfg (e : EncState) : e.retire.cfg = e.cfg := rfl

@[simp] theorem EncState.retire_seq (e : EncState) : e.retire.seq = e.seq := rfl

@[simp] theorem EncState.retire_fault (e : EncState) : e.retire.fault = e.fault := rfl

@[simp] theorem EncState.retire_phase (e : EncState) : e.retire.phase = e.phase := rfl

@[simp] theorem EncState.retire_txLog (e : EncState) : e.retire.txLog = e.txLog := rfl

@[simp] theorem EncState.retire_answers (e : EncState) : e.retire.answers = e.answers := rfl

@[simp] theorem EncState.retire_reqs (e : EncState) : e.retire.reqs = e.reqs := rfl

@[simp] theorem EncState.retire_tx (e : EncState) : e.retire.tx = e.tx := rfl

@[simp] theorem EncState.retire_draws (e : EncState) : e.retire.draws = e.draws + 1 := rfl


/-! ### The caller's result (`DecState.answer`) -/

@[simp] theorem DecState.answer_cfg (d : DecState) (a : DecAnswer) : (d.answer a).cfg = d.cfg := by
  unfold DecState.answer; split <;> rfl

@[simp] theorem DecState.answer_q (d : DecState) (a : DecAnswer) : (d.answer a).q = d.q := by
  unfold DecState.answer; split <;> rfl

@[simp] theorem DecState.answer_fault (d : DecState) (a : DecAnswer) : (d.answer a).fault = d.fault := by
  unfold DecState.answer; split <;> rfl

@[simp] theorem DecState.answer_phase (d : DecState) (a : DecAnswer) : (d.answer a).phase = d.phase := by
  unfold DecState.answer; split <;> rfl

@[simp] theorem DecState.answer_rxCount (d : DecState) (a : DecAnswer) :
    (d.answer a).rxCount = d.rxCount := by
  unfold DecState.answer; split <;> rfl

@[simp] theorem DecState.answer_framesLog (d : DecState) (a : DecAnswer) :
    (d.answer a).framesLog = d.framesLog := by
  unfold DecState.answer; split <;> rfl

@[simp] theorem DecState.answer_work (d : DecState) (a : DecAnswer) : (d.answer a).work = d.work := by
  unfold DecState.answer; split <;> rfl

@[simp] theorem DecState.answer_reqs (d : DecState) (a : DecAnswer) : (d.answer a).reqs = d.reqs := by
  unfold DecState.answer; split <;> rfl

@[simp] theorem DecState.answer_rx (d : DecState) (a : DecAnswer) : (d.answer a).rx = d.rx := by
  unfold DecState.answer; split <;> rfl

@[simp] theorem DecState.answer_draws (d : DecState) (a : DecAnswer) : (d.answer a).draws = d.draws := by
  unfold DecState.answer; split <;> rfl

@[simp] theorem DecState.answer_pend (d : DecState) (a : DecAnswer) : (d.answer a).pend = none := by
  unfold DecState.answer; split
  · assumption
  · rfl

@[simp] theorem DecState.answer_answers (d : DecState) (a : DecAnswer) :
    (d.answer a).answers = d.answers ++ (if d.pend = none then [] else [a]) := by
  unfold DecState.answer; split <;> simp [*]


/-! ### Taking an error (`DecState.raise`, `EncState.raise`) -/

@[simp] theorem DecState.raise_cfg (k : ErrorKind) (d : DecState) : (d.raise k).cfg = d.cfg := by
  simp [DecState.raise]

@[simp] theorem DecState.raise_q (k : ErrorKind) (d : DecState) : (d.raise k).q = d.q := by
  simp [DecState.raise]

@[simp] theorem DecState.raise_rxCount (k : ErrorKind) (d : DecState) :
    (d.raise k).rxCount = d.rxCount := by
  simp [DecState.raise]

@[simp] theorem DecState.raise_framesLog (k : ErrorKind) (d : DecState) :
    (d.raise k).framesLog = d.framesLog := by
  simp [DecState.raise]

@[simp] theorem DecState.raise_reqs (k : ErrorKind) (d : DecState) : (d.raise k).reqs = d.reqs := by
  simp [DecState.raise]

@[simp] theorem DecState.raise_rx (k : ErrorKind) (d : DecState) : (d.raise k).rx = d.rx := by
  simp [DecState.raise]

@[simp] theorem DecState.raise_phase (k : ErrorKind) (d : DecState) : (d.raise k).phase = .idle := rfl

@[simp] theorem DecState.raise_draws (k : ErrorKind) (d : DecState) :
    (d.raise k).draws = d.draws + 1 := by
  simp [DecState.raise]

@[simp] theorem DecState.raise_stage (k : ErrorKind) (d : DecState) : (d.raise k).work.stage = [] := rfl

@[simp] theorem DecState.raise_slices (k : ErrorKind) (d : DecState) : (d.raise k).work.slices = [] := rfl

@[simp] theorem DecState.raise_fault (k : ErrorKind) (d : DecState) :
    (d.raise k).fault = stickDec d.fault k := by
  simp [DecState.raise]

@[simp] theorem DecState.raise_pend (k : ErrorKind) (d : DecState) : (d.raise k).pend = none := by
  simp [DecState.raise]

@[simp] theorem DecState.raise_answers (k : ErrorKind) (d : DecState) :
    (d.raise k).answers = d.answers ++ (if d.pend = none then [] else [.err k]) := DecState.answer_answers d.retire (.err k)

@[simp] theorem EncState.raise_cfg (x : TransportErr) (e : EncState) : (e.raise x).cfg = e.cfg := rfl

@[simp] theorem EncState.raise_seq (x : TransportErr) (e : EncState) : (e.raise x).seq = e.seq := rfl

@[simp] theorem EncState.raise_txLog (x : TransportErr) (e : EncState) :
    (e.raise x).txLog = e.txLog := rfl

@[simp] theorem EncState.raise_reqs (x : TransportErr) (e : EncState) : (e.raise x).reqs = e.reqs := rfl

@[simp] theorem EncState.raise_tx (x : TransportErr) (e : EncState) : (e.raise x).tx = e.tx := rfl

@[simp] theorem EncState.raise_phase (x : TransportErr) (e : EncState) : (e.raise x).phase = .idle := rfl

@[simp] theorem EncState.raise_draws (x : TransportErr) (e : EncState) :
    (e.raise x).draws = e.draws + 1 := rfl

@[simp] theorem EncState.raise_fault (x : TransportErr) (e : EncState) :
    (e.raise x).fault = stickEnc e.fault := rfl

@[simp] theorem EncState.raise_answers (x : TransportErr) (e : EncState) :
    (e.raise x).answers = e.answers ++ [.err x] := rfl


/-! ### The queue serves (`DecState.serve`) -/

@[simp] theorem DecState.serve_cfg (d : DecState) : d.serve.cfg = d.cfg := by
  unfold DecState.serve; split <;> simp

@[simp] theorem DecState.serve_fault (d : DecState) : d.serve.fault = d.fault := by
  unfold DecState.serve; split <;> simp

@[simp] theorem DecState.serve_rxCount (d : DecState) : d.serve.rxCount = d.rxCount := by
  unfold DecState.serve; split <;> simp

@[simp] theorem DecState.serve_framesLog (d : DecState) : d.serve.framesLog = d.framesLog := by
  unfold DecState.serve; split <;> simp

@[simp] theorem DecState.serve_work (d : DecState) : d.serve.work = d.work := by
  unfold DecState.serve; split <;> simp

@[simp] theorem DecState.serve_reqs (d : DecState) : d.serve.reqs = d.reqs := by
  unfold DecState.serve; split <;> simp

@[simp] theorem DecState.serve_rx (d : DecState) : d.serve.rx = d.rx := by
  unfold DecState.serve; split <;> simp

@[simp] theorem DecState.serve_draws (d : DecState) : d.serve.draws = d.draws := by
  unfold DecState.serve; split <;> simp

@[simp] theorem DecState.serve_phase (d : DecState) : d.serve.phase = .idle := by
  unfold DecState.serve; split <;> rfl

@[simp] theorem DecState.serve_pend (d : DecState) : d.serve.pend = none := by
  unfold DecState.serve; split
  · assumption
  · simp


/-! ### The traversal goes on (`DecState.nextEntry`, `DecState.skipEntry`) -/

@[simp] theorem DecState.nextEntry_cfg (d : DecState) : d.nextEntry.cfg = d.cfg := rfl

@[simp] theorem DecState.nextEntry_q (d : DecState) : d.nextEntry.q = d.q := rfl

@[simp] theorem DecState.nextEntry_fault (d : DecState) : d.nextEntry.fault = d.fault := rfl

@[simp] theorem DecState.nextEntry_phase (d : DecState) : d.nextEntry.phase = d.phase := rfl

@[simp] theorem DecState.nextEntry_rxCount (d : DecState) : d.nextEntry.rxCount = d.rxCount := rfl

@[simp] theorem DecState.nextEntry_framesLog (d : DecState) : d.nextEntry.framesLog = d.framesLog := rfl

@[simp] theorem DecState.nextEntry_pend (d : DecState) : d.nextEntry.pend = d.pend := rfl

@[simp] theorem DecState.nextEntry_answers (d : DecState) : d.nextEntry.answers = d.answers := rfl

@[simp] theorem DecState.nextEntry_reqs (d : DecState) : d.nextEntry.reqs = d.reqs := rfl

@[simp] theorem DecState.nextEntry_rx (d : DecState) : d.nextEntry.rx = d.rx := rfl

@[simp] theorem DecState.nextEntry_draws (d : DecState) : d.nextEntry.draws = d.draws := rfl

@[simp] theorem DecState.skipEntry_cfg (d : DecState) : d.skipEntry.cfg = d.cfg := rfl

@[simp] theorem DecState.skipEntry_q (d : DecState) : d.skipEntry.q = d.q := rfl

@[simp] theorem DecState.skipEntry_fault (d : DecState) : d.skipEntry.fault = d.fault := rfl

@[simp] theorem DecState.skipEntry_rxCount (d : DecState) : d.skipEntry.rxCount = d.rxCount := rfl

@[simp] theorem DecState.skipEntry_framesLog (d : DecState) : d.skipEntry.framesLog = d.framesLog := rfl

@[simp] theorem DecState.skipEntry_pend (d : DecState) : d.skipEntry.pend = d.pend := rfl

@[simp] theorem DecState.skipEntry_answers (d : DecState) : d.skipEntry.answers = d.answers := rfl

@[simp] theorem DecState.skipEntry_reqs (d : DecState) : d.skipEntry.reqs = d.reqs := rfl

@[simp] theorem DecState.skipEntry_rx (d : DecState) : d.skipEntry.rx = d.rx := rfl

@[simp] theorem DecState.skipEntry_draws (d : DecState) : d.skipEntry.draws = d.draws := rfl

@[simp] theorem DecState.skipEntry_phase (d : DecState) : d.skipEntry.phase = .s8Extract := rfl

@[simp] theorem DecState.skipEntry_work (d : DecState) :
    d.skipEntry.work = { d.work with cursor := d.work.cursor + 1 } := rfl


/-! ### RESET (`DecState.create`, `EncState.create`) -/

@[simp] theorem DecState.create_cfg (cfg : Cfg) (rx : RxLine) (d : DecState) :
    (d.create cfg rx).cfg = cfg := rfl

@[simp] theorem DecState.create_q (cfg : Cfg) (rx : RxLine) (d : DecState) :
    (d.create cfg rx).q = [] := rfl

@[simp] theorem DecState.create_fault (cfg : Cfg) (rx : RxLine) (d : DecState) :
    (d.create cfg rx).fault = .none := rfl

@[simp] theorem DecState.create_phase (cfg : Cfg) (rx : RxLine) (d : DecState) :
    (d.create cfg rx).phase = .idle := rfl

@[simp] theorem DecState.create_rxCount (cfg : Cfg) (rx : RxLine) (d : DecState) :
    (d.create cfg rx).rxCount = 0 := rfl

@[simp] theorem DecState.create_framesLog (cfg : Cfg) (rx : RxLine) (d : DecState) :
    (d.create cfg rx).framesLog = [] := rfl

@[simp] theorem DecState.create_pend (cfg : Cfg) (rx : RxLine) (d : DecState) :
    (d.create cfg rx).pend = none := rfl

@[simp] theorem DecState.create_answers (cfg : Cfg) (rx : RxLine) (d : DecState) :
    (d.create cfg rx).answers = [] := rfl

@[simp] theorem DecState.create_rx (cfg : Cfg) (rx : RxLine) (d : DecState) :
    (d.create cfg rx).rx = rx := rfl

@[simp] theorem DecState.create_reqs (cfg : Cfg) (rx : RxLine) (d : DecState) :
    (d.create cfg rx).reqs = d.reqs := rfl

@[simp] theorem EncState.create_cfg (cfg : Cfg) (v : List TxVerdict) (e : EncState) :
    (e.create cfg v).cfg = cfg := rfl

@[simp] theorem EncState.create_seq (cfg : Cfg) (v : List TxVerdict) (e : EncState) :
    (e.create cfg v).seq = cfg.seqInit := rfl

@[simp] theorem EncState.create_fault (cfg : Cfg) (v : List TxVerdict) (e : EncState) :
    (e.create cfg v).fault = .none := rfl

@[simp] theorem EncState.create_phase (cfg : Cfg) (v : List TxVerdict) (e : EncState) :
    (e.create cfg v).phase = .idle := rfl

@[simp] theorem EncState.create_txLog (cfg : Cfg) (v : List TxVerdict) (e : EncState) :
    (e.create cfg v).txLog = [] := rfl

@[simp] theorem EncState.create_answers (cfg : Cfg) (v : List TxVerdict) (e : EncState) :
    (e.create cfg v).answers = [] := rfl

@[simp] theorem EncState.create_tx (cfg : Cfg) (v : List TxVerdict) (e : EncState) :
    (e.create cfg v).tx = ⟨[], v⟩ := rfl

@[simp] theorem EncState.create_reqs (cfg : Cfg) (v : List TxVerdict) (e : EncState) :
    (e.create cfg v).reqs = e.reqs := rfl


/-! ### Lifting to the machine -/

@[simp] theorem State.withDec_next (s : State) (d : DecState) :
    s.withDec (.next d) = .next { s with dec := d } := rfl

@[simp] theorem State.withEnc_next (s : State) (e : EncState) :
    s.withEnc (.next e) = .next { s with enc := e } := rfl

@[simp] theorem State.withDec_fault (s : State) (f : Fault) : s.withDec (.fault f) = .fault f := rfl

@[simp] theorem State.withDec_refused (s : State) (r : Refusal) : s.withDec (.refused r) = .refused r := rfl

@[simp] theorem State.withEnc_fault (s : State) (f : Fault) : s.withEnc (.fault f) = .fault f := rfl

@[simp] theorem State.withEnc_refused (s : State) (r : Refusal) : s.withEnc (.refused r) = .refused r := rfl

/-- What a lifted Decoder outcome can do: the other direction, the schedule and the unit stay. -/
theorem State.withDec_eq_next {s t : State} {o : Host.Outcome DecState Fault Refusal}
    (h : s.withDec o = .next t) : ∃ d, o = .next d ∧ t = { s with dec := d } := by
  cases o with
  | next d => exact ⟨d, rfl, (Host.Outcome.next.inj h).symm⟩
  | fault f => cases h
  | refused r => cases h

/-- What a lifted Encoder outcome can do. -/
theorem State.withEnc_eq_next {s t : State} {o : Host.Outcome EncState Fault Refusal}
    (h : s.withEnc o = .next t) : ∃ e, o = .next e ∧ t = { s with enc := e } := by
  cases o with
  | next e => exact ⟨e, rfl, (Host.Outcome.next.inj h).symm⟩
  | fault f => cases h
  | refused r => cases h

/-- A function of the shared traversal unit writes the result field and nothing else (R100). -/
theorem State.returns_eq_next {s t : State} {r : UnitResult} (h : s.returns r = .next t) :
    t = { s with unit := r } := (Host.Outcome.next.inj h).symm

end Sys2Proof.Machine
end

