-- ==== Sys2Proof/Laws/Ops.lean ====
section
/-! SUPPORT. For each shared operation, once, everything it can do. -/

namespace Sys2Proof.Machine

/-! ### The inbound transport -/

/-- A call answered from the stream: the next `n` bytes, all that is left of an ended stream, or no
answer (R41). -/
theorem rxServe_cases (n : Nat) (d : DecState) :
    (n ≤ d.rx.stream.length ∧ rxServe n d = (.full (d.rx.stream.take n), d.rxAdvance n)) ∨
    (d.rx.stream.length < n ∧ d.rx.ended = true ∧
      rxServe n d = (.short d.rx.stream, d.rxAdvance d.rx.stream.length)) ∨
    (d.rx.stream.length < n ∧ d.rx.ended = false ∧ rxServe n d = (.hold, d)) := by
  unfold rxServe
  by_cases h : n ≤ d.rx.stream.length
  · exact .inl ⟨h, by simp [h]⟩
  · cases he : d.rx.ended
    · exact .inr (.inr ⟨by omega, rfl, by simp [h]⟩)
    · exact .inr (.inl ⟨by omega, rfl, by simp [h]⟩)

/-- A failing call had consumed at most what it was asked for and what was there (U6). -/
theorem failedBytes_le (n : Nat) (d : DecState) :
    failedBytes n d ≤ n ∧ failedBytes n d ≤ d.rx.stream.length := by
  have := Nat.mod_lt (Config.rxFailConsumed d.draws) (show 0 < n + 1 by omega)
  unfold failedBytes
  omega

/-- `RxRead(n)`: full, short, failed, or not answered (R41, R63). -/
theorem rxRead_cases (n : Nat) (hn : 1 ≤ n) (d : DecState) :
    (n ≤ d.rx.stream.length ∧ rxRead n d = (.full (d.rx.stream.take n), d.rxAdvance n)) ∨
    (∃ m, m < n ∧ m ≤ d.rx.stream.length ∧
      rxRead n d = (.short (d.rx.stream.take m), d.rxAdvance m)) ∨
    (∃ e m, m ≤ n ∧ m ≤ d.rx.stream.length ∧
      rxRead n d = (.fail e, { d.rxAdvance m with draws := d.draws + 1 })) ∨
    (∃ v, rxRead n d = (.hold, { d with rx := { d.rx with verdicts := v } })) := by
  have serve (h : rxRead n d = rxServe n d) :
      (n ≤ d.rx.stream.length ∧ rxRead n d = (.full (d.rx.stream.take n), d.rxAdvance n)) ∨
      (∃ m, m < n ∧ m ≤ d.rx.stream.length ∧
        rxRead n d = (.short (d.rx.stream.take m), d.rxAdvance m)) ∨
      (∃ v, rxRead n d = (.hold, { d with rx := { d.rx with verdicts := v } })) := by
    rw [h]
    rcases rxServe_cases n d with ⟨a, b⟩ | ⟨a, _, c⟩ | ⟨_, _, c⟩
    · exact .inl ⟨a, b⟩
    · exact .inr (.inl ⟨_, a, le_rfl, by rw [c, List.take_length]⟩)
    · exact .inr (.inr ⟨d.rx.verdicts, c⟩)
  have widen {A B C D : Prop} : A ∨ B ∨ D → A ∨ B ∨ C ∨ D := by tauto
  rcases hv : d.rx.verdicts with _ | ⟨_ | k | e | _, rest⟩
  · exact widen (serve (by simp [rxRead, hv]))
  · exact widen (serve (by simp [rxRead, hv]))
  · refine .inr (.inl ⟨min (min k (n - 1)) d.rx.stream.length, by omega, by omega, ?_⟩)
    simp only [rxRead, hv, List.length_take]
    rw [← List.take_eq_take_min]
  · exact .inr (.inr (.inl ⟨e, failedBytes n d, (failedBytes_le n d).1, (failedBytes_le n d).2,
      by simp [rxRead, hv]⟩))
  · exact .inr (.inr (.inr ⟨rest, by simp [rxRead, hv]⟩))

/-- A reading step: it goes on with the next `n` bytes, raises with fewer consumed, or stays where it
is (R41, R194, R197, R63). -/
theorem readThen_cases (n : Nat) (hn : 1 ≤ n) (k : Bytes → DecState → DecState) (d : DecState) :
    (n ≤ d.rx.stream.length ∧ readThen n k d = k (d.rx.stream.take n) (d.rxAdvance n)) ∨
    (∃ m, m < n ∧ m ≤ d.rx.stream.length ∧
      readThen n k d = (d.rxAdvance m).raise .truncatedTransfer) ∨
    (∃ e m, m ≤ n ∧ m ≤ d.rx.stream.length ∧
      readThen n k d = { d.rxAdvance m with draws := d.draws + 1 }.raise (.transportError e)) ∨
    (∃ v, readThen n k d = { d with rx := { d.rx with verdicts := v } }) := by
  unfold readThen
  rcases rxRead_cases n hn d with ⟨h, e⟩ | ⟨m, h, h', e⟩ | ⟨x, m, h, h', e⟩ | ⟨v, e⟩ <;> rw [e]
  · exact .inl ⟨h, rfl⟩
  · exact .inr (.inl ⟨m, h, h', rfl⟩)
  · exact .inr (.inr (.inl ⟨x, m, h, h', rfl⟩))
  · exact .inr (.inr (.inr ⟨v, rfl⟩))

/-- Where the bytes are at hand, `RxRead(n)` takes them and the cursor advances (R41 a). -/
theorem rxRead_of_peek {n : Nat} {d : DecState} {b : Bytes} (h : rxPeek n d = some b) :
    b = d.rx.stream.take n ∧ n ≤ d.rx.stream.length ∧ rxRead n d = (.full b, d.rxAdvance n) := by
  have serve : rxRead n d = rxServe n d →
      b = d.rx.stream.take n ∧ n ≤ d.rx.stream.length ∧ rxRead n d = (.full b, d.rxAdvance n) :=
    fun e => by
      rw [rxPeek, e] at h
      rcases rxServe_cases n d with ⟨a, c⟩ | ⟨_, _, c⟩ | ⟨_, _, c⟩ <;> rw [c] at h <;> simp at h
      exact ⟨h.symm, a, by rw [e, c, h]⟩
  rcases hv : d.rx.verdicts with _ | ⟨_ | k | x | _, rest⟩
  · exact serve (by simp [rxRead, hv])
  · exact serve (by simp [rxRead, hv])
  all_goals simp [rxPeek, rxRead, hv] at h

/-- A reading step whose bytes are at hand goes on with them. -/
theorem readThen_of_peek {n : Nat} {d : DecState} {b : Bytes} (h : rxPeek n d = some b)
    (k : Bytes → DecState → DecState) : readThen n k d = k b (d.rxAdvance n) := by
  simp [readThen, (rxRead_of_peek h).2.2]

/-- The phase and the working registers have no say in what the transport answers. -/
theorem rxPeek_congr {n : Nat} {d d' : DecState} (h : d'.rx = d.rx) : rxPeek n d' = rxPeek n d := by
  unfold rxPeek rxRead rxServe
  rw [h]
  rcases d.rx.verdicts with _ | ⟨_ | k | e | _, rest⟩ <;> try rfl
  all_goals
    by_cases hn : n ≤ d.rx.stream.length <;> by_cases he : d.rx.ended = true <;> simp [hn, he]

/-! ### The queue and the payload buffer -/

/-- Appending to the queue: it fits, and nothing but the queue changes (R49, U3). -/
theorem qAppend_eq_some {b : Bytes} {d d' : DecState} (h : d.qAppend b = some d') :
    d' = { d with q := d.q ++ b } := by
  unfold DecState.qAppend at h
  split at h
  · exact (Option.some.inj h).symm
  · split at h
    · exact (Option.some.inj h).symm
    · cases h

/-- With an unbounded capacity everything fits (R5). -/
theorem qAppend_unbounded {b : Bytes} {d : DecState} (h : d.cfg.qCapacity = none) :
    d.qAppend b = some { d with q := d.q ++ b } := by
  simp [DecState.qAppend, h]

/-- A served queue: what was delivered and what remains are the queue, in order (R49, R149). -/
theorem serve_eq {d : DecState} {max : Nat} (h : d.pend = some max) :
    d.serve.q = d.q.drop (min max d.q.length) ∧
    d.serve.answers = d.answers ++ [.ok (d.q.take (min max d.q.length))] := by
  simp [DecState.serve, h]

/-- A read of the payload buffer lies inside it (R47). -/
theorem payloadRead_eq_some {w : DecWork} {off n : Nat} {b : Bytes} (h : payloadRead w off n = some b) :
    off + n ≤ w.payload.length ∧ b = slice w.payload off n := by
  unfold payloadRead at h
  split at h
  · exact ⟨‹_›, (Option.some.inj h).symm⟩
  · cases h

/-! ### The outbound transport -/

/-- The prefix that a failing write delivered is a prefix (R43, U7). -/
theorem failedPrefix_le (e : EncState) : failedPrefix e ≤ e.txbuf.length :=
  Nat.lt_succ_iff.mp (Nat.mod_lt _ (Nat.succ_pos _))

/-- `TxWrite`: done, failed, or not answered (R43, R63). -/
theorem txWrite_cases (e : EncState) :
    (∃ rest, e.tx.verdicts = .done :: rest ∧ txWrite e = { e.retire with
      phase := .idle, txLog := e.txLog ++ [e.txbuf], answers := e.answers ++ [.ok]
      tx := ⟨e.tx.sent ++ e.txbuf, rest⟩ }) ∨
    (∃ x rest, e.tx.verdicts = .fail x :: rest ∧
      txWrite e = { e.raise x with tx := ⟨e.tx.sent ++ e.txbuf.take (failedPrefix e), rest⟩ }) ∨
    (∃ v, txWrite e = { e with tx := { e.tx with verdicts := v } }) := by
  rcases hv : e.tx.verdicts with _ | ⟨_ | x | _, rest⟩
  · exact .inr (.inr ⟨e.tx.verdicts, show txWrite e = e by simp [txWrite, hv]⟩)
  · exact .inl ⟨rest, rfl, by simp [txWrite, hv]⟩
  · exact .inr (.inl ⟨x, rest, rfl, by simp [txWrite, hv]⟩)
  · exact .inr (.inr ⟨rest, by simp [txWrite, hv]⟩)

/-! ### Steps that may end otherwise than in a next state -/

/-- A live entry: it raises, reads outside the buffer, or stages its slice and goes on (R112, R114). -/
theorem liveEntry_cases (e : Entry) (d : DecState) :
    (∃ k, translate e d.work.thl d.work.plen = .error k ∧
      d.liveEntry e = .next (DecState.raise k { d with phase := .s8Extract })) ∨
    (∃ off, translate e d.work.thl d.work.plen = .ok off ∧
      d.work.payload.length < off + e.len.toNat ∧ d.liveEntry e = .fault .payloadOutOfRange) ∨
    (∃ off, translate e d.work.thl d.work.plen = .ok off ∧
      off + e.len.toNat ≤ d.work.payload.length ∧
      d.liveEntry e = .next { d with
        phase := .s8Extract
        work := { d.work with
          stage := d.work.stage ++ slice d.work.payload off e.len.toNat
          slices := d.work.slices ++ [slice d.work.payload off e.len.toNat]
          cursor := d.work.cursor + 1 } }) := by
  unfold DecState.liveEntry
  cases ht : translate e d.work.thl d.work.plen with
  | error k => exact .inl ⟨k, rfl, by simp [ht]⟩
  | ok off =>
    by_cases hr : off + e.len.toNat ≤ d.work.payload.length
    · exact .inr (.inr ⟨off, rfl, hr, by simp [ht, payloadRead, hr, DecState.nextEntry]⟩)
    · exact .inr (.inl ⟨off, rfl, by omega, by simp [ht, payloadRead, hr]⟩)

/-- The whole traversal: a fault over a short buffer, a raise, or everything staged (R147). -/
theorem stepS8_cases (d : DecState) :
    (d.work.payload.length < d.work.plen ∧ d.stepS8 = .fault .payloadOutOfRange) ∨
    (d.work.plen ≤ d.work.payload.length ∧
      ∃ k, extract d.work.ent d.work.thl d.work.plen d.work.payload = .error k ∧
      d.stepS8 = .next (DecState.raise k { d with phase := .s8Extract })) ∨
    (d.work.plen ≤ d.work.payload.length ∧
      ∃ l, extract d.work.ent d.work.thl d.work.plen d.work.payload = .ok l ∧
      d.stepS8 = .next { d with
        phase := .s8Extract
        work := { d.work with slices := l, stage := l.flatten, cursor := d.work.ent.length } }) := by
  unfold DecState.stepS8
  by_cases h : d.work.payload.length < d.work.plen
  · exact .inl ⟨h, by simp [h]⟩
  · cases he : extract d.work.ent d.work.thl d.work.plen d.work.payload with
    | error k => exact .inr (.inl ⟨by omega, k, rfl, by simp [h, he]⟩)
    | ok l => exact .inr (.inr ⟨by omega, l, rfl, by simp [h, he]⟩)

/-- The release: refused where it does not fit, else the queue and the log grow together (R148). -/
theorem release_cases (d : DecState) :
    (d.qAppend d.work.stage = none ∧ d.release = .refused .queueOverflow) ∨
    d.release = .next { d with
      q := d.q ++ d.work.stage
      framesLog := d.framesLog ++ d.work.slices
      phase := .s9Serve } := by
  unfold DecState.release
  cases h : d.qAppend d.work.stage with
  | none => exact .inl ⟨rfl, rfl⟩
  | some d' => exact .inr (by rw [qAppend_eq_some h])

/-- A sequence of outcomes that ends in a next state went through one. -/
theorem andThen_eq_next {o : Host.Outcome DecState Fault Refusal}
    {f : DecState → Host.Outcome DecState Fault Refusal} {d : DecState} (h : andThen o f = .next d) :
    ∃ d', o = .next d' ∧ f d' = .next d := by
  cases o with
  | next d' => exact ⟨d', rfl, h⟩
  | fault r => cases h
  | refused r => cases h

/-- A sequence of outcomes ends in a fault where one of the two does. -/
theorem andThen_eq_fault {o : Host.Outcome DecState Fault Refusal}
    {f : DecState → Host.Outcome DecState Fault Refusal} {r : Fault} (h : andThen o f = .fault r) :
    o = .fault r ∨ ∃ d', o = .next d' ∧ f d' = .fault r := by
  cases o with
  | next d' => exact .inr ⟨d', rfl, h⟩
  | fault r' => exact .inl h
  | refused r => cases h

/-- What holds of a state and is kept by the next step holds after it, whether or not the Decoder has
reached that step's phase. -/
theorem thenAt_induct {P : DecState → Prop} {p : Phase} {f : DecState → DecState} {d : DecState}
    (h : P d) (hf : d.phase = p → P d → P (f d)) : P (d.thenAt p f) := by
  unfold DecState.thenAt
  split
  · exact hf ‹_› h
  · exact h

/-- The same for a step that can end otherwise than in a next state. -/
theorem goOnAt_cases (p : Phase) (f : DecState → Host.Outcome DecState Fault Refusal) (d : DecState) :
    (d.phase = p ∧ d.goOnAt p f = f d) ∨ (d.phase ≠ p ∧ d.goOnAt p f = .next d) := by
  unfold DecState.goOnAt
  by_cases h : d.phase = p
  · exact .inl ⟨h, by simp [h]⟩
  · exact .inr ⟨h, by simp [h]⟩

end Sys2Proof.Machine
end

