-- ==== Sys2Proof/Laws/PerInstr.lean ====
section
/-! SUPPORT. What holds of every instruction as syntax, one lemma per constructor. -/

namespace Sys2Proof.Laws

/-- An instruction has an encoding exactly where it has a place on the wire, and its bytes are as many
as the structure at that place has (R71 to R75, R81, R84). -/
def EncodedSize.Statement (i : Instr) : Prop :=
  ∀ cfg : Cfg, (encode cfg i).map List.length = (posOf i).map Pos.size

theorem EncodedSize.nth (h : Nth) : EncodedSize.Statement (.nth h) := fun _ => rfl

theorem EncodedSize.ndpf (p : Ndpf) : EncodedSize.Statement (.ndpf p) := fun _ => rfl

theorem EncodedSize.entryTerm : EncodedSize.Statement .entryTerm := fun _ => rfl

theorem EncodedSize.entryZlen (idx : U16) : EncodedSize.Statement (.entryZlen idx) := fun _ => rfl

theorem EncodedSize.entryLive (idx len : U16) : EncodedSize.Statement (.entryLive idx len) := fun _ => rfl

theorem EncodedSize.pad (b0 b1 : Byte) : EncodedSize.Statement (.pad b0 b1) := fun _ => rfl

theorem EncodedSize.payload (bytes : Bytes) : EncodedSize.Statement (.payload bytes) := fun _ => rfl

theorem EncodedSize.ntb1 (seq blen elen : U16) : EncodedSize.Statement (.ntb1 seq blen elen) := fun cfg =>
  congrArg some (ntb1Head_length cfg seq blen elen)

theorem EncodedSize.decRead (max : Nat) : EncodedSize.Statement (.decRead max) := fun _ => rfl

theorem EncodedSize.decNtb : EncodedSize.Statement .decNtb := fun _ => rfl

theorem EncodedSize.decS1 : EncodedSize.Statement .decS1 := fun _ => rfl

theorem EncodedSize.decS2 : EncodedSize.Statement .decS2 := fun _ => rfl

theorem EncodedSize.decS3 : EncodedSize.Statement .decS3 := fun _ => rfl

theorem EncodedSize.decS4 : EncodedSize.Statement .decS4 := fun _ => rfl

theorem EncodedSize.decS5 : EncodedSize.Statement .decS5 := fun _ => rfl

theorem EncodedSize.decS6 : EncodedSize.Statement .decS6 := fun _ => rfl

theorem EncodedSize.decS7 : EncodedSize.Statement .decS7 := fun _ => rfl

theorem EncodedSize.decS8 : EncodedSize.Statement .decS8 := fun _ => rfl

theorem EncodedSize.decRelease : EncodedSize.Statement .decRelease := fun _ => rfl

theorem EncodedSize.decS9 : EncodedSize.Statement .decS9 := fun _ => rfl

theorem EncodedSize.encWrite (frame : Bytes) : EncodedSize.Statement (.encWrite frame) := fun _ => rfl

theorem EncodedSize.reset (target : ResetTarget) (cfg : Cfg) : EncodedSize.Statement (.reset target cfg) := fun _ => rfl

theorem EncodedSize.parseNTH (b : Bytes) : EncodedSize.Statement (.parseNTH b) := fun _ => rfl

theorem EncodedSize.serNTH (h : Nth) : EncodedSize.Statement (.serNTH h) := fun _ => rfl

theorem EncodedSize.parseNDPF (b : Bytes) : EncodedSize.Statement (.parseNDPF b) := fun _ => rfl

theorem EncodedSize.serNDPF (p : Ndpf) : EncodedSize.Statement (.serNDPF p) := fun _ => rfl

theorem EncodedSize.parseEntries (t : Bytes) : EncodedSize.Statement (.parseEntries t) := fun _ => rfl

theorem EncodedSize.serEntries (es : List Entry) : EncodedSize.Statement (.serEntries es) := fun _ => rfl

theorem EncodedSize.normalise (cfg : Cfg) (v : U16) : EncodedSize.Statement (.normalise cfg v) := fun _ => rfl

theorem EncodedSize.entryCount (ndplen : U16) : EncodedSize.Statement (.entryCount ndplen) := fun _ => rfl

theorem EncodedSize.lengths (hlen ndplen blen : U16) (es : List Entry) : EncodedSize.Statement (.lengths hlen ndplen blen es) := fun _ => rfl

theorem EncodedSize.isSkipped (e : Entry) : EncodedSize.Statement (.isSkipped e) := fun _ => rfl

theorem EncodedSize.translate (e : Entry) (thl plen : Nat) : EncodedSize.Statement (.translate e thl plen) := fun _ => rfl

theorem EncodedSize.extract (es : List Entry) (thl plen : Nat) (payload : Bytes) : EncodedSize.Statement (.extract es thl plen payload) := fun _ => rfl

theorem EncodedSize.ntb1Build (cfg : Cfg) (s : U16) (frame : Bytes) : EncodedSize.Statement (.ntb1Build cfg s frame) := fun _ => rfl

end Sys2Proof.Laws
end

