-- ==== Sys2Proof/Laws/Step.lean ====
section
/-! SUPPORT. Lemmas about one step and about runs of steps. -/

namespace Sys2Proof.Machine

/-- A run goes on from the state its first step gives. -/
theorem run_succ_of_next {k : Nat} {s t : State} (h : step s = .next t) :
    Host.Core.run core (k + 1) s = Host.Core.run core k t := by
  have h' : core.step s = .next t := h
  simp only [Host.Core.run, h']

/-- Without an agent to move nothing happens (log 6). -/
theorem step_of_sched_nil {s : State} (h : s.sched = []) : step s = .next s := by simp [step, h]

/-- A step is the turn of the agent the schedule names (log 6). -/
theorem step_of_sched_cons {s : State} {a : Agent} {rest : List Agent} (h : s.sched = a :: rest) :
    step s = turn a { s with sched := rest } := by simp [step, h]

/-- The bytes at hand are as many as were asked for. -/
theorem rxPeek_length {n : Nat} {d : DecState} {b : Bytes} (h : rxPeek n d = some b) :
    b.length = n := by
  obtain ⟨e, hn, _⟩ := rxRead_of_peek h
  rw [e]; simp; omega

/-- Without a verdict that says otherwise a call is answered from the stream (R41). -/
theorem rxRead_of_serving {n : Nat} {d : DecState} (h : Serving d.rx) : rxRead n d = rxServe n d := by
  rcases h with h | ⟨_, h⟩ <;> simp [rxRead, h]

/-- The traversal meets the entry at its cursor in its own class (R79, R114). -/
theorem fetchEntry_of_entry {s : State} {e : Entry} (h : s.dec.work.ent[s.dec.work.cursor]? = some e) :
    fetchEntry s = .run (classify e) s := by simp [fetchEntry, h, decode_serEntry]

/-- An entry's meaning is decided by its `Length` alone (R79, R111). -/
theorem exec_classify (e : Entry) (s : State) :
    exec (classify e) s =
      s.withDec (if e.len = 0 then .next s.dec.skipEntry else s.dec.liveEntry e) := by
  rcases classify_cases e with ⟨h, _, c⟩ | ⟨h, _, c⟩ | ⟨h, c⟩ <;> rw [c]
  · rw [if_pos h]; rfl
  · rw [if_pos h]; rfl
  · rw [if_neg h]; rfl

end Sys2Proof.Machine
end

