-- ==== Sys2Proof/Tests/Slice0.lean ====
section
/-! SUPPORT. Tests: the well-formedness checks refuse ill-formed terms; words written out from the spec's
encoding tables decode to what they stand for; vectors of `spec/95_test_vectors.md`; and, for every
statement with hypotheses, a witness that meets them. -/

namespace Sys2Proof.Tests

open Sys2Proof Sys2Proof.Machine

/-! ### Well-formedness: an ill-formed term for each check -/

/-- A buffer too long to write out: lengths are decided, the bytes are not. -/
def long (n : Nat) : Bytes := List.replicate n 0

theorem long_length (n : Nat) : (long n).length = n := List.length_replicate

theorem test_wf_entryZlen_needs_index : Instr.wf (.entryZlen 0) = false := by decide
theorem test_wf_entryLive_needs_length : Instr.wf (.entryLive 30 0) = false := by decide
theorem test_wf_payload_bounded : Instr.wf (.payload (long 65526)) = false := by
  rw [Instr.wf, long_length]; decide
theorem test_wf_ntb1_lengths_agree : Instr.wf (.ntb1 0 42 11) = false := by decide
theorem test_wf_ntb1_no_wrap : Instr.wf (.ntb1 0 29 65535) = false := by decide
theorem test_wf_encWrite_bounded : Instr.wf (.encWrite (long 65506)) = false := by
  rw [Instr.wf, long_length]; decide
theorem test_wf_parseNTH_length : Instr.wf (.parseNTH (zeros 11)) = false := by decide
theorem test_wf_parseNDPF_length : Instr.wf (.parseNDPF (zeros 9)) = false := by decide
theorem test_wf_parseEntries_whole : Instr.wf (.parseEntries (zeros 6)) = false := by decide
theorem test_wf_translate_live : Instr.wf (.translate ⟨30, 0⟩ 30 12) = false := by decide
theorem test_wf_extract_payload : Instr.wf (.extract [] 30 12 (zeros 11)) = false := by decide
theorem test_wf_ntb1Build_bounded :
    Instr.wf (.ntb1Build Cfg.standard 0 (long 65506)) = false := by
  rw [Instr.wf, long_length]; decide

/-! ### Words written out from the encoding tables (R71 to R75, R79, R81) -/

/-- R71: `4E 43 4D 48 | 0C 00 | 34 12 | 2A 00 | 78 56`. -/
theorem test_decode_nth :
    decodeTableWord 96 0x5678002A1234000C484D434E = some (.nth ⟨0x484D434E, 12, 0x1234, 42, 0x5678⟩) := by
  decide
/-- R72, vector W9: `4E 43 4D 30 | 8C 00 | 34 12`. -/
theorem test_decode_ndpf :
    decodeTableWord 64 0x1234008C304D434E = some (.ndpf ⟨0x304D434E, 0x8C, 0x1234⟩) := by decide
/-- R79: Index 0, Length 0. -/
theorem test_decode_entryTerm : decodeTableWord 32 0x00000000 = some .entryTerm := by decide
/-- R79: Index 0x8001, Length 0. -/
theorem test_decode_entryZlen : decodeTableWord 32 0x00008001 = some (.entryZlen 0x8001) := by decide
/-- R73, vector W10: `1E 00 0C 00`. -/
theorem test_decode_entryLive : decodeTableWord 32 0x000C001E = some (.entryLive 30 12) := by decide
/-- R79: Index 0 with Length not 0 is live. -/
theorem test_decode_entryLive_index0 : decodeTableWord 32 0x00050000 = some (.entryLive 0 5) := by decide
/-- R74: two bytes, the first in the low bits. -/
theorem test_decode_pad : decodeTableWord 16 0x0201 = some (.pad 1 2) := by decide
/-- R75: bytes in stream order. -/
theorem test_decode_payload : decodeTableWord 24 0x030201 = some (.payload [1, 2, 3]) := by decide
/-- R81, the first 30 bytes of vector E4: sequence number 5, a frame of 65505 bytes. -/
theorem test_decode_ntb1 :
    decodeTableWord 240 0x000000000000FFE1001E00000010304D434E000CFFFF0005000C484D434E =
      some (.ntb1 5 65535 65505) := by decide
/-- R81: another HeaderLength is not the emitted form. -/
theorem test_decode_ntb1_other_form :
    decodeTableWord 240 0x000000000000FFE1001E00000010304D434E000CFFFF0005000D484D434E = none := by
  decide
/-- R84: a row without bits has no word. -/
theorem test_decode_no_encoding : decodeTableWord 0 0 = none := by decide
/-- R84: the operations, steps and functions have no encoding. -/
theorem test_encode_no_encoding :
    ([.decRead 0, .decNtb, .decS1, .decS2, .decS3, .decS4, .decS5, .decS6, .decS7, .decS8, .decRelease,
      .decS9, .encWrite [], .reset (.enc []) Cfg.standard, .parseNTH [], .serNTH ⟨0, 0, 0, 0, 0⟩,
      .parseNDPF [], .serNDPF ⟨0, 0, 0⟩, .parseEntries [], .serEntries [],
      .normalise Cfg.standard 0, .entryCount 0, .lengths 0 0 0 [], .isSkipped ⟨0, 0⟩,
      .translate ⟨0, 0⟩ 0 0, .extract [] 0 0 [], .ntb1Build Cfg.standard 0 []] : List Instr).all
      (fun i => encode Cfg.standard i == none) = true := by decide

/-! ### Vectors of the spec -/

/-- The 42 bytes of vector V1. -/
def v1 : Bytes :=
  [0x4E, 0x43, 0x4D, 0x48, 0x0C, 0, 0, 0, 0x2A, 0, 0x0C, 0, 0x4E, 0x43, 0x4D, 0x30, 0x10, 0, 0, 0,
    0x1E, 0, 0x0C, 0, 0, 0, 0, 0, 0, 0,
    0xA0, 0xA1, 0xA2, 0xA3, 0xA4, 0xA5, 0xA6, 0xA7, 0xA8, 0xA9, 0xAA, 0xAB]

/-- The reset machine with `b` to come from RX and nothing after it. -/
def fed (b : Bytes) : State :=
  { State.reset with dec := { State.reset.dec with rx := ⟨b, true, []⟩ } }

/-- The reset machine with the Decoder at phase `p` with working registers `w` and an outstanding read. -/
def at' (p : Phase) (w : DecWork) (rx : RxLine) : State :=
  { State.reset with
    dec := { State.reset.dec with phase := p, work := w, rx := rx, pend := some 12 }, sched := [.dec] }

/-- The reset machine whose Encoder has counted to `n` and whose transport answers `v`. -/
def sending (n : U16) (v : List TxVerdict) : State :=
  { State.reset with enc := { State.reset.enc with seq := n, tx := ⟨[], v⟩ }, sched := [.enc] }

/-- The working registers of V1 before S8. -/
def w1 : DecWork :=
  { zeroWork with
    nth := ⟨0x484D434E, 12, 0, 42, 12⟩, ndp := ⟨0x304D434E, 16, 0⟩, ndpLen := 16, nEnt := 2
    ent := [⟨30, 12⟩, ⟨0, 0⟩], thl := 30, plen := 12, payload := v1.drop 30 }

/-- What can be told of the Decoder after an outcome. -/
def seen : Host.Outcome State Fault Refusal → Option (List DecAnswer × Bytes × Nat × DecFault × Phase)
  | .next s => some (s.dec.answers, s.dec.q, s.dec.rxCount, s.dec.fault, s.dec.phase)
  | .fault _ => none
  | .refused _ => none

/-- What can be told of the Encoder after an outcome. -/
def sent : Host.Outcome State Fault Refusal → Option (Bytes × U16 × List EncAnswer × EncFault)
  | .next s => some (s.enc.tx.sent, s.enc.seq, s.enc.answers, s.enc.fault)
  | .fault _ => none
  | .refused _ => none

/-- V1. -/
theorem test_v1 : seen (exec (.decRead 12) (fed v1)) =
    some ([.ok (v1.drop 30)], [], 42, .none, .idle) := by decide
/-- X1. -/
theorem test_x1 : seen (exec (.decRead 3)
    { fed (0x4F :: v1.tail) with dec := { (fed (0x4F :: v1.tail)).dec with q := [0x77, 0x78] } }) =
    some ([.err .malformedHeader], [0x77, 0x78], 12, .malformedHeader, .idle) := by decide
/-- X2. -/
theorem test_x2 : seen (exec (.decRead 12) (fed (v1.set 15 0x31))) =
    some ([.err .malformedDatagramPointer], [], 20, .malformedDatagramPointer, .idle) := by decide
/-- X4. -/
theorem test_x4 : seen (exec (.decRead 12) (fed (v1.set 16 0x0A))) =
    some ([.err .inconsistentLength], [], 20, .inconsistentLength, .idle) := by decide
/-- X6. -/
theorem test_x6 : seen (exec (.decRead 12) (fed ((v1.set 8 0x1E).take 30))) =
    some ([.err .inconsistentLength], [], 30, .inconsistentLength, .idle) := by decide
/-- X8. -/
theorem test_x8 : seen (exec (.decRead 12) (fed (v1.set 20 0x1F))) =
    some ([.err .corruptFrame], [], 42, .corruptFrame, .idle) := by decide
/-- X12. -/
theorem test_x12 : seen (exec (.decRead 12) (fed [0x4F, 0x43, 0x4D, 0x48, 0x0C])) =
    some ([.err .truncatedTransfer], [], 5, .truncatedTransfer, .idle) := by decide
/-- X20. -/
theorem test_x20 : seen (exec (.decRead 12) (fed (v1.take 41))) =
    some ([.err .truncatedTransfer], [], 41, .truncatedTransfer, .idle) := by decide
/-- E1. -/
theorem test_e1 : sent (exec (.encWrite (v1.drop 30)) (sending 0 [.done])) =
    some (v1, 1, [.ok], .none) := by decide
/-- E3. -/
theorem test_e3 : sent (exec (.encWrite []) (sending 65535 [.done])) =
    some ([0x4E, 0x43, 0x4D, 0x48, 0x0C, 0, 0xFF, 0xFF, 0x1E, 0, 0x0C, 0, 0x4E, 0x43, 0x4D, 0x30, 0x10, 0,
      0, 0, 0x1E, 0, 0, 0, 0, 0, 0, 0, 0, 0], 0, [.ok], .none) := by decide
/-- W34: out of order, overlapping, a live entry after a terminator. -/
theorem test_w34 : extract [⟨40, 3⟩, ⟨0, 0⟩, ⟨38, 4⟩, ⟨5, 0⟩] 38 6 [0xD0, 0xD1, 0xD2, 0xD3, 0xD4, 0xD5] =
    .ok [[0xD2, 0xD3, 0xD4], [0xD0, 0xD1, 0xD2, 0xD3]] := by rfl
/-- W32: no wrap. -/
theorem test_w32 : Machine.translate ⟨65535, 65535⟩ 30 12 = .error .corruptFrame := by rfl
/-- W24: no wrap. -/
theorem test_w24 : lengths 65535 65532 65535 [] = .error .inconsistentLength := by rfl
/-- W15: the replacement is not looked up again. -/
theorem test_w15 : normalise { Cfg.standard with quirks := [(1, 2), (2, 3)] } 1 = 2 := by decide
/-- R116 holds of V1 and fails of V1 with non-zero padding (clause 10). -/
theorem test_wellFormedNTB : wellFormedNTB Cfg.standard v1 = true ∧
    wellFormedNTB Cfg.standard (v1.set 28 1) = false := by decide
/-- R191: the codes. -/
theorem test_codes : decFaultCode .corruptFrame = 5 ∧ encFaultCode .transportError = 6 := by decide

/-! ### Witnesses: the hypotheses of the statements are met -/

theorem witness_DecodeUndoesEncode :
    Instr.wf (.ntb1 5 65535 65505) = true ∧ posOf (.ntb1 5 65535 65505) = some .ntb1 ∧
    encode Cfg.standard (.ntb1 5 65535 65505) = some (ntb1Head Cfg.standard 5 65535 65505) ∧
    Instr.wf (.entryLive 30 12) = true ∧
    encode Cfg.standard (.entryLive 30 12) = some [30, 0, 12, 0] := by decide

theorem witness_EncodeUndoesDecode :
    decode Cfg.standard .entry [30, 0, 12, 0, 0xFF] = .ok (.entryLive 30 12, [0xFF]) := by rfl

theorem witness_packing : (v1.take 12).length = 12 ∧ ((v1.drop 12).take 8).length = 8 ∧
    ((v1.drop 20).take 8).length % 4 = 0 ∧ 1 < ((v1.drop 20).take 8).length / 4 ∧
    ([] : Bytes).length % 4 = 0 := by decide

theorem witness_QuirkFirstMatchOnce :
    ({ Cfg.standard with quirks := [(1, 2), (2, 3)] } : Cfg).quirks = [(1, 2)] ++ (2, 3) :: [] ∧
    (∀ p ∈ [((1 : U16), (2 : U16))], p.1 ≠ 2) ∧ (∀ p ∈ Cfg.standard.quirks, p.1 ≠ 0x003C) :=
  ⟨rfl, by simp, by simp [Cfg.standard]⟩

theorem witness_EntryCountExact :
    (∀ n, (10 : U16).toNat ≠ 8 + 4 * n) ∧ (∀ n, (7 : U16).toNat ≠ 8 + 4 * n) ∧
    entryCount 65532 = .ok 16381 ∧ entryCount 8 = .ok 0 :=
  ⟨fun n => by simp; omega, fun n => by simp; omega, rfl, rfl⟩

/-- Each clause: W21, W22, W19, W20, W25. -/
theorem witness_LengthsExact :
    (29 : U16).toNat < (12 : U16).toNat + (16 : U16).toNat + 2 ∧
    ((30 : U16).toNat = (12 : U16).toNat + (16 : U16).toNat + 2 ∧
      ∃ e ∈ [(⟨30, 1⟩ : Entry), ⟨0, 0⟩], e.len ≠ 0) ∧
    (∀ e ∈ [(⟨30, 0⟩ : Entry), ⟨0, 0⟩], e.len = 0) ∧
    (12 : U16).toNat + (16 : U16).toNat + 2 ≤ (42 : U16).toNat ∧
    lengths 0 8 65535 [] = .ok (10, 65525) ∧
    (65525 : U16) ≠ 0 ∧ Machine.translate ⟨10, 65525⟩ 10 65525 = .ok 0 := by
  refine ⟨by decide, ⟨by decide, by decide⟩, by decide, by decide, rfl, by decide, rfl⟩

/-- Each clause at its boundary: W27, W28, W30. -/
theorem witness_TranslateExact :
    (30 ≤ (41 : U16).toNat ∧ (41 : U16).toNat - 30 + (1 : U16).toNat ≤ 12) ∧ (29 : U16).toNat < 30 ∧
    (30 ≤ (42 : U16).toNat ∧ 12 < (42 : U16).toNat - 30 + (1 : U16).toNat) ∧ (1 : U16) ≠ 0 := by decide

/-- W34 and W35. -/
theorem witness_ExtractExact : (v1.drop 30).length = 12 ∧
    (∀ e ∈ [(⟨30, 12⟩ : Entry), ⟨0, 0⟩], e.len ≠ 0 →
      30 ≤ e.idx.toNat ∧ e.idx.toNat - 30 + e.len.toNat ≤ 12) ∧
    (∃ e ∈ [(⟨30, 2⟩ : Entry), ⟨29, 1⟩],
      e.len ≠ 0 ∧ (e.idx.toNat < 30 ∨ 12 < e.idx.toNat - 30 + e.len.toNat)) ∧
    extract [⟨30, 12⟩, ⟨0, 0⟩] 30 12 (v1.drop 30) = .ok [v1.drop 30] :=
  ⟨by decide, by decide, by decide, rfl⟩

theorem witness_frame_lengths : (long 65505).length ≤ 65505 ∧
    65505 < (long 65506).length ∧ normalise Cfg.standard 16 = 16 := by
  rw [long_length, long_length]; decide

theorem witness_signatures :
    (⟨0x484D434E, 12, 0, 42, 12⟩ : Nth).sig = (fed v1).dec.cfg.nthSig ∧
    (⟨0x484D434F, 12, 0, 42, 12⟩ : Nth).sig ≠ (fed v1).dec.cfg.nthSig ∧
    (⟨0x304D434E, 16, 0⟩ : Ndpf).sig = (fed v1).dec.cfg.ndpSig ∧
    (⟨0x314D434E, 16, 0⟩ : Ndpf).sig ≠ (fed v1).dec.cfg.ndpSig := by decide

/-- `HeaderRejected` and `PointerRejected`, the clauses about the steps. -/
theorem witness_rejected_steps :
    rxPeek 12 (fed (v1.set 0 0x4F)).dec = some ((v1.set 0 0x4F).take 12) ∧
    (parseNTH ((v1.set 0 0x4F).take 12)).sig ≠ (fed v1).dec.cfg.nthSig ∧
    rxPeek 8 (fed ((v1.set 15 0x31).drop 12)).dec = some (((v1.set 15 0x31).drop 12).take 8) ∧
    (parseNDPF (((v1.set 15 0x31).drop 12).take 8)).sig ≠ (fed v1).dec.cfg.ndpSig := by decide

theorem witness_PayloadTakenWhole : (v1.drop 30).length = (at' .s7Pay w1 ⟨[], true, []⟩).dec.work.plen ∧
    ([] : Bytes).length = State.reset.dec.work.plen := by decide

/-- `LiveEntryStaged` with the last payload byte, `LiveEntryOutOfBoundsRaises` on both sides. -/
theorem witness_live_entries :
    w1.payload.length = w1.plen ∧ w1.thl ≤ (41 : U16).toNat ∧
    (41 : U16).toNat - w1.thl + (1 : U16).toNat ≤ w1.plen ∧ (29 : U16).toNat < w1.thl ∧
    w1.plen < (42 : U16).toNat - w1.thl + (1 : U16).toNat ∧ (1 : U16) ≠ 0 := by decide

theorem witness_ShortPayloadBufferFaults :
    ({ w1 with payload := [1] } : DecWork).payload.length < w1.plen ∧ w1.thl ≤ (30 : U16).toNat ∧
    (30 : U16).toNat - w1.thl + (2 : U16).toNat ≤ w1.plen ∧
    ({ w1 with payload := [1] } : DecWork).payload.length <
      (30 : U16).toNat - w1.thl + (2 : U16).toNat ∧ (2 : U16) ≠ 0 := by decide

/-- One state for each clause of `ReadingStepsTakeTheirStructure`. -/
theorem witness_ReadingStepsTakeTheirStructure :
    rxPeek 12 (fed v1).dec = some (v1.take 12) ∧
    (parseNTH (v1.take 12)).sig = (fed v1).dec.cfg.nthSig ∧
    rxPeek 8 (at' .s2Ndpf w1 ⟨v1.drop 12, true, []⟩).dec = some ((v1.drop 12).take 8) ∧
    (parseNDPF ((v1.drop 12).take 8)).sig = (fed v1).dec.cfg.ndpSig ∧
    entryCount w1.ndpLen = .ok 2 ∧
    rxPeek (4 * 2) (at' .s4Ent w1 ⟨v1.drop 20, true, []⟩).dec = some ((v1.drop 20).take 8) ∧
    rxPeek 2 (at' .s5Pad w1 ⟨v1.drop 28, true, []⟩).dec = some [0, 0] ∧
    rxPeek 12 (at' .s7Pay w1 ⟨v1.drop 30, true, []⟩).dec = some (v1.drop 30) ∧ 12 = w1.plen :=
  ⟨by decide, by decide, by decide, by decide, rfl, by decide, by decide, by decide, by decide⟩

theorem witness_ZeroLengthReadsNotIssued :
    (at' .s4Ent { w1 with ndpLen := 8 } ⟨[], true, [.wait]⟩).dec.work.ndpLen = 8 ∧
    (at' .s7Pay { w1 with plen := 0 } ⟨[], true, [.wait]⟩).dec.work.plen = 0 := by decide

/-- Every reading step asks, at the least and at the most `ShortReadTruncates` allows a short answer. -/
theorem witness_readsOf :
    readsOf (at' .s1Nth w1 ⟨[], true, []⟩).dec .decS1 = some 12 ∧
    readsOf (at' .s2Ndpf w1 ⟨[1, 2, 3, 4, 5, 6, 7], true, []⟩).dec .decS2 = some 8 ∧
    readsOf (at' .s4Ent w1 ⟨v1, true, [.short 7]⟩).dec .decS4 = some 8 ∧
    readsOf (at' .s5Pad w1 ⟨v1, true, [.fail 3]⟩).dec .decS5 = some 2 ∧
    readsOf (at' .s7Pay w1 ⟨v1, true, [.wait]⟩).dec .decS7 = some 12 ∧
    (at' .s2Ndpf w1 ⟨[1, 2, 3, 4, 5, 6, 7], true, []⟩).dec.rx.stream.length < 8 ∧
    (at' .s4Ent w1 ⟨v1, true, [.short 7]⟩).dec.rx.verdicts = .short 7 :: [] ∧
    (at' .s5Pad w1 ⟨v1, true, [.fail 3]⟩).dec.rx.verdicts = .fail 3 :: [] ∧
    (at' .s7Pay w1 ⟨v1, true, [.wait]⟩).dec.rx.verdicts = .wait :: [] := by decide

/-- `ShortReadTruncates` at the end of the stream and `UnansweredCallsHold` before it, one byte short,
with no verdict and with `serve`. -/
theorem witness_serving :
    Serving (at' .s7Pay w1 ⟨(v1.drop 30).take 11, true, []⟩).dec.rx ∧
    Serving (at' .s7Pay w1 ⟨(v1.drop 30).take 11, false, [.serve]⟩).dec.rx ∧
    ((v1.drop 30).take 11).length < 12 ∧
    readsOf (at' .s7Pay w1 ⟨(v1.drop 30).take 11, false, [.serve]⟩).dec .decS7 = some 12 :=
  ⟨.inl rfl, .inr ⟨[], rfl⟩, by decide, by decide⟩

theorem witness_TableLengthRejected :
    ∀ n, ({ w1 with ndpLen := 10 } : DecWork).ndpLen.toNat ≠ 8 + 4 * n := fun n => by
  simp; omega

theorem witness_LengthsStep :
    (w1.nth.hlen.toNat + w1.ndpLen.toNat + 2 ≤ w1.nth.blen.toNat ∧
      w1.nth.blen.toNat ≠ w1.nth.hlen.toNat + w1.ndpLen.toNat + 2) ∧
    ((30 : U16).toNat = w1.nth.hlen.toNat + w1.ndpLen.toNat + 2 ∧ ∃ e ∈ w1.ent, e.len ≠ 0) ∧
    (29 : U16).toNat < w1.nth.hlen.toNat + w1.ndpLen.toNat + 2 := by decide

theorem witness_TraversalStep : w1.payload.length = w1.plen ∧
    (∀ e ∈ w1.ent, e.len ≠ 0 → w1.thl ≤ e.idx.toNat ∧ e.idx.toNat - w1.thl + e.len.toNat ≤ w1.plen) ∧
    (∃ e ∈ [(⟨29, 12⟩ : Entry)], e.len ≠ 0 ∧
      (e.idx.toNat < w1.thl ∨ w1.plen < e.idx.toNat - w1.thl + e.len.toNat)) := by decide

/-- A Decoder whose queue holds `q` and is bounded by `c`. -/
def bounded (c : Nat) (q stage : Bytes) : DecState :=
  { State.reset.dec with
    cfg := { Cfg.standard with qCapacity := some c }, q := q, work := { w1 with stage := stage } }

theorem witness_ReleaseStep :
    (bounded 3 [1] [2, 3]).cfg.qCapacity = some 3 ∧
    (bounded 3 [1] [2, 3]).q.length + (bounded 3 [1] [2, 3]).work.stage.length ≤ 3 ∧
    (bounded 2 [1] [2, 3]).cfg.qCapacity = some 2 ∧
    2 < (bounded 2 [1] [2, 3]).q.length + (bounded 2 [1] [2, 3]).work.stage.length ∧
    State.reset.dec.cfg.qCapacity = none := by decide

theorem witness_ServeTakesFromHead : (at' .s9Serve w1 ⟨[], true, []⟩).dec.pend = some 12 := by decide

theorem witness_EntryByEntryIsTraversal :
    (at' .s8Extract w1 ⟨[], true, []⟩).dec.phase = .s8Extract ∧ w1.cursor = 0 ∧ w1.stage = [] ∧
    w1.slices = [] ∧ w1.payload.length = w1.plen ∧ w1.ent.length = 2 := by decide

/-- `DecodeNtbIsBigStep` and `ReadDecodesOneNtb`, with an unbounded queue. -/
theorem witness_bigStep : (fed v1).dec.rx.verdicts = [] ∧ (fed v1).dec.rx.ended = true ∧
    ReleaseFits (fed v1).dec ∧ (fed v1).dec.phase = .idle ∧ (fed v1).dec.q.length < 12 :=
  ⟨by decide, by decide, by simp [ReleaseFits, fed, State.reset, DecState.reset, Cfg.standard],
    by decide, by decide⟩

theorem witness_SuccessAccounting : bigStep Cfg.standard v1 = (.ok [v1.drop 30], 42) := by rfl

theorem witness_ReadServedFromQueue : State.reset.dec.phase = .idle ∧ 0 ≤ State.reset.dec.q.length ∧
    2 ≤ (bounded 3 [1, 2] []).q.length := by decide

theorem witness_QuirkLaw :
    (v1.take 16).length = 16 ∧ (fed v1).dec.cfg.quirks = [(0x008C, 0x003C)] ∧
    (fed v1).dec.phase = .idle ∧ (fed v1).dec.q.length < 12 ∧ (fed v1).dec.rx.verdicts = [] ∧
    (fed v1).dec.rx.ended = true ∧ 2 ≤ (v1.drop 18).length ∧
    u32At (v1.take 16) 0 = (fed v1).dec.cfg.nthSig ∧ u32At (v1.take 16) 12 = (fed v1).dec.cfg.ndpSig := by
  decide

theorem witness_OutstandingOperationsRefuse :
    (at' .s1Nth w1 ⟨[], false, []⟩).dec.phase ≠ .idle ∧
    ({ State.reset.enc with phase := .writing } : EncState).phase ≠ .idle := by decide

theorem witness_writes :
    (sending 65535 [.done]).enc.phase = .idle ∧ (sending 65535 [.done]).enc.tx.verdicts = .done :: [] ∧
    (sending 2 [.fail 9]).enc.tx.verdicts = .fail 9 :: [] ∧
    (sending 2 [.wait]).enc.tx.verdicts = .wait :: [] ∧ (sending 2 []).enc.tx.verdicts = [] := by decide

/-- `InboundConsumedInOrder`: a structure whose bytes are the last in RX, and a step that takes them. -/
theorem witness_InboundConsumedInOrder :
    rxTaken (.pad 0 0) ≤ (at' .s5Pad w1 ⟨[0, 0], true, []⟩).dec.rx.stream.length ∧
    (at' .s5Pad w1 ⟨[0, 0], true, []⟩).dec.phase ≠ .idle ∧
    (∃ t, exec (.pad 0 0) (at' .s5Pad w1 ⟨[0, 0], true, []⟩) = .next t) ∧
    ∃ t, step (at' .s5Pad w1 ⟨[0, 0], true, []⟩) = .next t :=
  ⟨by decide, by decide, ⟨_, rfl⟩, ⟨_, rfl⟩⟩

theorem witness_FunctionsReturnResults :
    (v1.take 12).length = 12 ∧ ((v1.drop 12).take 8).length = 8 ∧ ((v1.drop 20).take 8).length % 4 = 0 ∧
    (v1.drop 30).length = 12 ∧ (v1.drop 30).length ≤ 65505 := by decide

theorem witness_OutsideDomainRefused :
    State.reset.enc.phase = .idle ∧ (zeros 11).length ≠ 12 ∧ (zeros 9).length ≠ 8 ∧
    (zeros 6).length % 4 ≠ 0 ∧ (zeros 11).length ≠ 12 ∧
    (zeros 1).length ≠ State.reset.dec.work.plen := by decide

/-- The premise of the statements about every instruction, with a fault recorded in both directions. -/
theorem witness_exec_next :
    ∃ t, exec .decS3 { State.reset with
      dec := { State.reset.dec with fault := .corruptFrame }
      enc := { State.reset.enc with fault := .transportError } } = .next t ∧
    t.dec.fault = .corruptFrame ∧ isReset .decS3 = false ∧ (∀ frame, Instr.decS3 ≠ .encWrite frame) ∧
    agentOf .decS3 ≠ some .enc ∧ agentOf (.encWrite []) ≠ some .dec ∧ Instr.decS3 ≠ .decRelease ∧
    Instr.decS3 ≠ .decNtb ∧ ∀ max, Instr.decS3 ≠ .decRead max :=
  ⟨_, rfl, rfl, rfl, fun _ h => Instr.noConfusion h, by decide, by decide, by decide, by decide,
    fun _ h => Instr.noConfusion h⟩

/-- Both agents have something to do: the Decoder is to normalise, the Encoder is to write. -/
theorem witness_DirectionsCommute :
    ∃ t u, turn .dec { sending 0 [.done] with dec := { State.reset.dec with phase := .s3Norm } } = .next t ∧
      turn .enc { sending 0 [.done] with
        dec := { State.reset.dec with phase := .s3Norm } } = .next u :=
  ⟨_, _, rfl, rfl⟩

/-- A Decoder in the middle of V1: S8, after the first of its two entries. -/
def midway : State :=
  at' .s8Extract { w1 with stage := v1.drop 30, slices := [v1.drop 30], cursor := 1 } ⟨[], true, []⟩

theorem witness_midway_work : WorkInv midway.dec := by
  constructor
  · decide
  · decide
  · decide
  · exact fun _ => ⟨rfl, rfl⟩
  · exact fun _ => rfl
  · exact fun _ => ⟨by decide, by decide, rfl, by decide⟩

theorem witness_midway_enc : EncInv midway.enc := by
  constructor
  · decide
  · decide
  · exact fun h => absurd h (by decide)
  · exact fun b h => absurd h (by simp [midway, at', State.reset, EncState.reset])
  · decide

/-- `InvariantKept` and the first clause of `InvariantSafe`. -/
theorem witness_InvariantKept : Invariant midway ∧ ∃ t, step midway = .next t :=
  ⟨⟨⟨by decide, by decide, by decide, by decide, witness_midway_work⟩, witness_midway_enc⟩, _, rfl⟩

/-- A state of the invariant whose step is refused: the stage does not fit into a queue of 11 bytes. -/
def crowded : State :=
  { midway with dec := { midway.dec with
    cfg := { Cfg.standard with qCapacity := some 11 }, work := { midway.dec.work with cursor := 2 } } }

theorem witness_InvariantSafe : Invariant crowded ∧ step crowded = .refused .queueOverflow := by
  refine ⟨⟨⟨by decide, by decide, by decide, by decide, ?_⟩, witness_midway_enc⟩, rfl⟩
  constructor
  · decide
  · decide
  · decide
  · exact fun _ => ⟨rfl, rfl⟩
  · exact fun _ => rfl
  · exact fun _ => ⟨by decide, by decide, rfl, by decide⟩

/-- One state for each way a step takes a decoded instruction. -/
theorem witness_StepRunsDecodedInstruction :
    State.reset.sched = [] ∧
    (at' .s1Nth w1 ⟨v1, true, []⟩).sched = [.dec] ∧
    rxPeek Pos.nth.size (at' .s1Nth w1 ⟨v1, true, []⟩).dec = some (v1.take 12) ∧
    decode Cfg.standard .nth (v1.take 12) = .ok (.nth ⟨0x484D434E, 12, 0, 42, 12⟩, []) ∧
    rxPeek (Pos.payload 12).size (at' .s7Pay w1 ⟨v1.drop 30, true, []⟩).dec = some (v1.drop 30) ∧
    w1.plen ≠ 0 ∧
    midway.dec.work.ent[midway.dec.work.cursor]? = some ⟨0, 0⟩ ∧
    decode midway.dec.cfg .entry (serEntry ⟨0, 0⟩) = .ok (.entryTerm, []) ∧
    decode Cfg.standard .ntb1 v1 = .ok (.ntb1 0 42 12, v1.drop 30) :=
  ⟨by decide, by decide, by decide, rfl, by decide, by decide, by decide, rfl, rfl⟩

theorem witness_StepRunsRequestsAndPhases :
    ({ State.reset with sched := [.dec], dec := { State.reset.dec with reqs := [.read 12] } } :
      State).dec.reqs = .read 12 :: [] ∧
    (sending 0 []).sched = .enc :: [] ∧ (sending 0 []).enc.phase = .idle ∧
    ({ State.reset.enc with reqs := [.write [1]] } : EncState).reqs = .write [1] :: [] ∧
    rxPeek 12 (at' .s1Nth w1 ⟨[1], true, []⟩).dec = none ∧
    rxPeek 8 (at' .s2Ndpf w1 ⟨[1], false, []⟩).dec = none ∧
    rxPeek 2 (at' .s5Pad w1 ⟨v1, true, [.wait]⟩).dec = none ∧
    crowded.dec.work.ent.length ≤ crowded.dec.work.cursor := by decide

theorem witness_StreamLawEncoding :
    ∃ s : State, s.enc.phase = .idle ∧ s.enc.reqs = [[1, 2], []].map .write ∧
      s.enc.tx.verdicts = List.replicate 2 .done ∧ s.sched = List.replicate 2 .enc :=
  ⟨{ sending 65535 [.done, .done] with
      enc := { (sending 65535 [.done, .done]).enc with reqs := [.write [1, 2], .write []] }
      sched := [.enc, .enc] }, rfl, rfl, rfl, rfl⟩

theorem witness_StreamLawDecoding :
    ∃ s : State, s.dec.phase = .idle ∧ s.dec.q = [] ∧ normalise s.dec.cfg 16 = 16 ∧
      s.dec.cfg.qCapacity = none ∧ s.dec.rx = ⟨(ntbStream s.dec.cfg 0 [[1, 2], []]).flatten, true, []⟩ ∧
      s.dec.reqs = [(([1, 2] : Bytes), 2), ([], 1)].map (fun r => .read r.2) ∧
      s.sched = List.replicate 2 .dec ∧
      ∀ r ∈ [(([1, 2] : Bytes), 2), ([], 1)], r.1.length ≤ 65505 ∧ r.1.length ≤ r.2 ∧ 0 < r.2 :=
  ⟨{ fed (ntbStream Cfg.standard 0 [[1, 2], []]).flatten with
      dec := { (fed (ntbStream Cfg.standard 0 [[1, 2], []]).flatten).dec with
        reqs := [.read 2, .read 1] }
      sched := [.dec, .dec] }, rfl, rfl, by decide, rfl, rfl, rfl, rfl, by decide⟩

end Sys2Proof.Tests
end

section
/-! SUPPORT. An agent's move as a function of that agent's own state (R29, R58). Where the bytes of a wire
structure are at hand, running the structure is running the step that reads it (R78, R133). -/

namespace Sys2Proof.Machine

/-! ### The emitted head, decoded and encoded (R81) -/

/-- Two neighbouring slices are one. -/
theorem slice_append_slice (b : Bytes) (i m n : Nat) :
    slice b i m ++ slice b (i + m) n = slice b i (m + n) := by
  simp only [slice, ← List.drop_drop, List.take_add]

/-- Where byte `i` is there, `getD` reads it. -/
theorem drop_eq_getD_cons {b : Bytes} {i : Nat} (h : i < b.length) :
    b.drop i = b.getD i 0 :: b.drop (i + 1) := by
  rw [List.drop_eq_getElem_cons h, List.getD_eq_getElem _ _ h]

/-- The two bytes of a 16-bit field read from `b`. -/
theorem le16_u16At {b : Bytes} {i : Nat} (h : i + 2 ≤ b.length) : le16 (u16At b i) = slice b i 2 := by
  rw [slice, drop_eq_getD_cons (by omega), drop_eq_getD_cons (by omega), u16At, le16_le16Of]
  rfl

/-- The four bytes of a 32-bit field read from `b`. -/
theorem le32_u32At {b : Bytes} {i : Nat} (h : i + 4 ≤ b.length) : le32 (u32At b i) = slice b i 4 := by
  rw [slice, drop_eq_getD_cons (by omega), drop_eq_getD_cons (by omega), drop_eq_getD_cons (by omega),
    drop_eq_getD_cons (by omega), u32At, le32_le32Of]
  rfl

/-- The head field by field. -/
theorem ntb1Head_eq_append (cfg : Cfg) (seq blen elen : U16) :
    ntb1Head cfg seq blen elen =
      le32 cfg.nthSig ++ le16 12 ++ le16 seq ++ le16 blen ++ le16 12 ++ le32 cfg.ndpSig ++ le16 16 ++
        le16 0 ++ le16 30 ++ le16 elen ++ le32 0 ++ le16 0 := by
  simp [ntb1Head, serNTH, serNDPF, serEntries, serEntry, zeros, Config.padLen, le16, le32]

/-- Thirty bytes with the fixed bytes of R81 are the head with the three free fields read from them. -/
theorem ntb1Head_of_isNtb1Head {cfg : Cfg} {b : Bytes} (hb : b.length = 30)
    (h : isNtb1Head cfg b = true) : ntb1Head cfg (u16At b 6) (u16At b 8) (u16At b 22) = b := by
  simp only [isNtb1Head, Bool.and_eq_true, beq_iff_eq] at h
  obtain ⟨⟨⟨⟨⟨⟨⟨⟨h0, h4⟩, h10⟩, h12⟩, h16⟩, h18⟩, h20⟩, h24⟩, h28⟩ := h
  calc ntb1Head cfg (u16At b 6) (u16At b 8) (u16At b 22)
      = le32 (u32At b 0) ++ le16 (u16At b 4) ++ le16 (u16At b 6) ++ le16 (u16At b 8) ++
          le16 (u16At b 10) ++ le32 (u32At b 12) ++ le16 (u16At b 16) ++ le16 (u16At b 18) ++
          le16 (u16At b 20) ++ le16 (u16At b 22) ++ le32 (u32At b 24) ++ le16 (u16At b 28) := by
        rw [ntb1Head_eq_append, h0, h4, h10, h12, h16, h18, h20, h24, h28]
    _ = slice b 0 4 ++ slice b 4 2 ++ slice b 6 2 ++ slice b 8 2 ++ slice b 10 2 ++ slice b 12 4 ++
          slice b 16 2 ++ slice b 18 2 ++ slice b 20 2 ++ slice b 22 2 ++ slice b 24 4 ++
          slice b 28 2 := by
        simp only [hb, le16_u16At, le32_u32At, Nat.reduceAdd, Nat.reduceLeDiff]
    _ = slice b 0 30 := by
        have join (i m n : Nat) := slice_append_slice b i m n
        rw [join 0 4 2, join 0 6 2, join 0 8 2, join 0 10 2, join 0 12 4, join 0 16 2, join 0 18 2,
          join 0 20 2, join 0 22 2, join 0 24 4, join 0 28 2]
    _ = b := by rw [slice, List.drop_zero, List.take_of_length_le (by omega)]

/-! ### The Decoder's move -/

/-- The bytes at a position, all of them, decode to the structure of that position (R78). -/
theorem decodeAt_of_decode {cfg : Cfg} {pos : Pos} {b after : Bytes} {i : Instr}
    (h : decode cfg pos b = .ok (i, after)) (hb : b.length = pos.size) : decodeAt cfg b pos = .ok i := by
  unfold decode at h
  rw [if_neg (by omega), List.take_of_length_le (by omega)] at h
  cases hd : decodeAt cfg b pos with
  | ok j => rw [hd] at h; cases h; rfl
  | error e => rw [hd] at h; cases h

/-- A reading step finds its bytes at hand whatever phase it sets. -/
theorem readThen_at_phase {n : Nat} {d : DecState} {b : Bytes} (h : rxPeek n d = some b) (p : Phase)
    (k : Bytes → DecState → DecState) :
    readThen n k { d with phase := p } = k b ({ d with phase := p }.rxAdvance n) :=
  readThen_of_peek ((rxPeek_congr (d := d) (d' := { d with phase := p }) rfl).trans h) k

/-- NTH with its bytes at hand is step S1 (R71, R140). -/
theorem exec_nth_of_peek {s : State} {b : Bytes} (h : rxPeek 12 s.dec = some b) :
    exec (.nth (parseNTH b)) s = exec .decS1 s :=
  congrArg (fun d => s.withDec (.next d))
    (readThen_at_phase h .s1Nth fun b d => d.latchNth (parseNTH b)).symm

/-- NDPF with its bytes at hand is step S2 (R72, R141). -/
theorem exec_ndpf_of_peek {s : State} {b : Bytes} (h : rxPeek 8 s.dec = some b) :
    exec (.ndpf (parseNDPF b)) s = exec .decS2 s :=
  congrArg (fun d => s.withDec (.next d))
    (readThen_at_phase h .s2Ndpf fun b d => d.latchNdpf (parseNDPF b)).symm

/-- PAD with its bytes at hand is step S5 (R74, R144). -/
theorem exec_pad_of_peek {s : State} {b : Bytes} (h : rxPeek 2 s.dec = some b) :
    exec (.pad (b.getD 0 0) (b.getD 1 0)) s = exec .decS5 s :=
  congrArg (fun d => s.withDec (.next d))
    (readThen_at_phase h .s5Pad fun b d => d.latchPad (b.getD 0 0) (b.getD 1 0)).symm

/-- PAYLOAD with its bytes at hand is step S7 (R75, R146). -/
theorem exec_payload_of_peek {s : State} {b : Bytes} (hp : s.dec.work.plen ≠ 0)
    (h : rxPeek s.dec.work.plen s.dec = some b) : exec (.payload b) s = exec .decS7 s := by
  have hb : b.length = s.dec.work.plen := rxPeek_length h
  have hne : b ≠ [] := fun e => hp (by rw [← hb, e]; rfl)
  have hr := readThen_at_phase h .s7Pay fun b d => d.latchPayload b
  simp only [exec, execPayload, execDecS7, DecState.stepS7, if_neg hp, hr, hb, ne_eq, not_true,
    if_false, if_neg hne]

/-- A Decoder that may read a structure: where the structure, once its bytes are at hand, does what
the phase's step does, the turn is that step. -/
theorem turn_of_fetchRx {s : State} {pos : Pos} {i : Instr} (hf : fetchDec s = fetchRx pos i s)
    (same : ∀ b j, rxPeek pos.size s.dec = some b → decodeAt s.dec.cfg b pos = .ok j →
      exec j s = exec i s) : turn .dec s = exec i s := by
  simp only [turn, fetch, hf, fetchRx]
  cases hb : rxPeek pos.size s.dec with
  | none => rfl
  | some b =>
    cases hd : decode s.dec.cfg pos b with
    | error e => simp only [hd]
    | ok p =>
      simp only [hd]
      exact same b p.1 hb (decodeAt_of_decode hd (rxPeek_length hb))

/-- The Decoder's move: its caller's next request, the step of its phase, or the next entry of the
table (R133, R230; log 9). `turn_dec` ties it to the machine. -/
def DecState.move (d : DecState) : Host.Outcome DecState Fault Refusal :=
  match d.phase with
  | .idle =>
    match d.reqs with
    | [] => .next d
    | .read max :: rest => { d with reqs := rest }.read max
    | .reset cfg rx :: rest => .next ({ d with reqs := rest }.create cfg rx)
  | .s1Nth => .next d.stepS1
  | .s2Ndpf => .next d.stepS2
  | .s3Norm => .next d.stepS3
  | .s4Ent => .next d.stepS4
  | .s5Pad => .next d.stepS5
  | .s6Len => .next d.stepS6
  | .s7Pay => .next d.stepS7
  | .s8Extract =>
    match d.work.ent[d.work.cursor]? with
    | none => d.release
    | some e => if e.len = 0 then .next d.skipEntry else d.liveEntry e
  | .s9Serve => .next d.stepS9

/-- A lifted outcome overwrites whatever the Decoder was. -/
theorem State.withDec_overwrite (s : State) (d : DecState) (o : Host.Outcome DecState Fault Refusal) :
    { s with dec := d }.withDec o = s.withDec o := by cases o <;> rfl

/-- A lifted outcome overwrites whatever the Encoder was. -/
theorem State.withEnc_overwrite (s : State) (e : EncState) (o : Host.Outcome EncState Fault Refusal) :
    { s with enc := e }.withEnc o = s.withEnc o := by cases o <;> rfl

/-- An idle Decoder takes its caller's next request (R230). -/
theorem turn_dec_idle {s : State} (hp : s.dec.phase = .idle) : turn .dec s = s.withDec s.dec.move := by
  simp only [turn, fetch, fetchDec, DecState.move, hp]
  rcases hr : s.dec.reqs with _ | ⟨max | ⟨cfg, rx⟩, rest⟩
  · rfl
  · exact State.withDec_overwrite s _ _
  · simp [exec, execReset]

/-- The traversal takes the next entry, or releases after the last (R114, R148). -/
theorem turn_dec_s8 {s : State} (hp : s.dec.phase = .s8Extract) :
    turn .dec s = s.withDec s.dec.move := by
  simp only [turn, fetch, fetchDec, DecState.move, hp]
  cases he : s.dec.work.ent[s.dec.work.cursor]? with
  | none => simp [fetchEntry, he, exec, execDecRelease]
  | some e => rw [fetchEntry_of_entry he]; exact exec_classify e s

/-- A turn of the Decoder is its move: it depends on the Decoder alone and writes nothing else (R29). -/
theorem turn_dec (s : State) : turn .dec s = s.withDec s.dec.move := by
  cases hp : s.dec.phase with
  | idle => exact turn_dec_idle hp
  | s1Nth =>
    rw [turn_of_fetchRx (i := .decS1) (pos := .nth) (by simp [fetchDec, hp])]
    · simp [DecState.move, hp, exec, execDecS1]
    · rintro b _ hb ⟨⟩; exact exec_nth_of_peek hb
  | s2Ndpf =>
    rw [turn_of_fetchRx (i := .decS2) (pos := .ndpf) (by simp [fetchDec, hp])]
    · simp [DecState.move, hp, exec, execDecS2]
    · rintro b _ hb ⟨⟩; exact exec_ndpf_of_peek hb
  | s5Pad =>
    rw [turn_of_fetchRx (i := .decS5) (pos := .pad) (by simp [fetchDec, hp])]
    · simp [DecState.move, hp, exec, execDecS5]
    · rintro b _ hb ⟨⟩; exact exec_pad_of_peek hb
  | s7Pay =>
    have hstep : exec .decS7 s = s.withDec s.dec.move := by
      simp [DecState.move, hp, exec, execDecS7]
    rw [← hstep]
    by_cases h0 : s.dec.work.plen = 0
    · simp [turn, fetch, fetchDec, hp, h0]
    · refine turn_of_fetchRx (pos := .payload s.dec.work.plen) (by simp [fetchDec, hp, h0]) ?_
      rintro b _ hb ⟨⟩
      exact exec_payload_of_peek h0 hb
  | s8Extract => exact turn_dec_s8 hp
  | s3Norm => simp [turn, fetch, fetchDec, DecState.move, hp, exec, execDecS3]
  | s4Ent => simp [turn, fetch, fetchDec, DecState.move, hp, exec, execDecS4]
  | s6Len => simp [turn, fetch, fetchDec, DecState.move, hp, exec, execDecS6]
  | s9Serve => simp [turn, fetch, fetchDec, DecState.move, hp, exec, execDecS9]

/-! ### The Encoder's move -/

/-- A blocked Encoder holds a whole head of the emitted form (R81; log 28). -/
def EncState.holdsForm (e : EncState) : Bool :=
  decide (30 ≤ e.txbuf.length) && isNtb1Head e.cfg (e.txbuf.take 30)

/-- The Encoder's move: its caller's next request, or the write it is blocked in (R230, R173; log 16).
`turn_enc` ties it to the machine. -/
def EncState.move (e : EncState) : Host.Outcome EncState Fault Refusal :=
  match e.phase with
  | .idle =>
    match e.reqs with
    | [] => .next e
    | .write frame :: rest => { e with reqs := rest }.write frame
    | .reset cfg v :: rest => .next ({ e with reqs := rest }.create cfg v)
  | .writing => if e.holdsForm then .next (txWrite e) else .refused .notTheEmittedForm

/-- An idle Encoder takes its caller's next request (R230). -/
theorem turn_enc_idle {s : State} (hp : s.enc.phase = .idle) : turn .enc s = s.withEnc s.enc.move := by
  simp only [turn, fetch, fetchEnc, EncState.move, hp]
  rcases hr : s.enc.reqs with _ | ⟨frame | ⟨cfg, v⟩, rest⟩
  · rfl
  · exact State.withEnc_overwrite s _ _
  · simp [exec, execReset]

/-- A blocked Encoder goes on with the buffer it holds: NTB1 puts its head back where it was read
(R81, R173). -/
theorem turn_enc_writing {s : State} (hp : s.enc.phase = .writing) :
    turn .enc s = s.withEnc s.enc.move := by
  have hsize : Pos.ntb1.size = 30 := rfl
  simp only [turn, fetch, fetchEnc, EncState.move, hp, decode, decodeAt, hsize, EncState.holdsForm]
  by_cases hl : 30 ≤ s.enc.txbuf.length
  · by_cases hh : isNtb1Head s.enc.cfg (s.enc.txbuf.take 30) = true
    · have hhead := ntb1Head_of_isNtb1Head (by simp [hl]) hh
      have hself : { s.enc with txbuf := s.enc.txbuf, phase := .writing } = s.enc := by rw [← hp]
      simp only [if_neg (Nat.not_lt.mpr hl), hh, hl, if_true, decide_true, Bool.and_self]
      rw [exec, execNtb1, hhead, show Config.encOverhead = 30 from rfl, List.take_append_drop, hself]
    · simp [hl, hh, Nat.not_lt.mpr hl]
  · simp [hl, Nat.lt_of_not_le hl]

/-- A turn of the Encoder is its move: it depends on the Encoder alone and writes nothing else (R29). -/
theorem turn_enc (s : State) : turn .enc s = s.withEnc s.enc.move := by
  cases hp : s.enc.phase with
  | idle => exact turn_enc_idle hp
  | writing => exact turn_enc_writing hp

end Sys2Proof.Machine
end

section
/-! SUPPORT. What each step of an NTB keeps is kept by the whole NTB, by the whole read and by the
Decoder's moves. -/

namespace Sys2Proof.Machine

/-- `P` is kept by each step of an NTB, from the phase the step runs in (R134). Step S1 is where `P` is
to be brought in. -/
structure KeptBySteps (P : DecState → Prop) : Prop where
  s2 : ∀ d, d.phase = .s2Ndpf → P d → P d.stepS2
  s3 : ∀ d, d.phase = .s3Norm → P d → P d.stepS3
  s4 : ∀ d, d.phase = .s4Ent → P d → P d.stepS4
  s5 : ∀ d, d.phase = .s5Pad → P d → P d.stepS5
  s6 : ∀ d, d.phase = .s6Len → P d → P d.stepS6
  s7 : ∀ d, d.phase = .s7Pay → P d → P d.stepS7
  s8 : ∀ d d', d.phase = .s8Extract → P d → d.stepS8 = .next d' → P d'
  release : ∀ d d', d.phase = .s8Extract → P d → d.release = .next d' → P d'
  s9 : ∀ d, d.phase = .s9Serve → P d → P d.stepS9

/-- Kept through everything the Decoder reads of one NTB. -/
theorem KeptBySteps.readNtb {P : DecState → Prop} (k : KeptBySteps P) {d : DecState}
    (h1 : P d.stepS1) : P d.readNtb := by
  have h2 := thenAt_induct h1 (k.s2 _)
  have h3 := thenAt_induct h2 (k.s3 _)
  have h4 := thenAt_induct h3 (k.s4 _)
  have h5 := thenAt_induct h4 (k.s5 _)
  have h6 := thenAt_induct h5 (k.s6 _)
  exact thenAt_induct h6 (k.s7 _)

/-- What holds of a state and is kept by a step that may end otherwise holds of the next state. -/
theorem goOnAt_induct {P : DecState → Prop} {p : Phase}
    {f : DecState → Host.Outcome DecState Fault Refusal} {d d' : DecState} (h : P d)
    (hf : d.phase = p → P d → f d = .next d' → P d') (hd : d.goOnAt p f = .next d') : P d' := by
  rcases goOnAt_cases p f d with ⟨hp, e⟩ | ⟨_, e⟩
  · exact hf hp h (e.symm.trans hd)
  · exact Host.Outcome.next.inj (e.symm.trans hd) ▸ h

/-- Kept through the whole NTB (R134). -/
theorem KeptBySteps.decodeNtb {P : DecState → Prop} (k : KeptBySteps P) {d d' : DecState}
    (h1 : P d.stepS1) (h : d.decodeNtb = .next d') : P d' := by
  obtain ⟨d8, hd8, hrel⟩ := andThen_eq_next h
  have h8 : P d8 := goOnAt_induct (k.readNtb h1) (k.s8 _ _) hd8
  exact goOnAt_induct h8 (k.release _ _) hrel

/-- Kept through the whole read: served from the queue, or after one NTB (R131, R132). -/
theorem KeptBySteps.read {P : DecState → Prop} (k : KeptBySteps P) {max : Nat} {d d' : DecState}
    (hserve : P { d with pend := some max }.serve) (h1 : P { d with pend := some max }.stepS1)
    (h : d.read max = .next d') : P d' := by
  unfold DecState.read at h
  split at h
  · cases h
  · dsimp only at h
    split at h
    · exact Host.Outcome.next.inj h ▸ hserve
    · obtain ⟨d9, hd9, htail⟩ := andThen_eq_next h
      refine goOnAt_induct (k.decodeNtb h1 hd9) (fun hp h9 e => ?_) htail
      exact Host.Outcome.next.inj e ▸ k.s9 _ hp h9

/-- An idle Decoder waits, reads, or is created anew (R230). -/
theorem move_cases_of_idle {d d' : DecState} (hp : d.phase = .idle) (e : d.move = .next d') :
    (d.reqs = [] ∧ d' = d) ∨
    (∃ max rest, d.reqs = .read max :: rest ∧ { d with reqs := rest }.read max = .next d') ∨
    (∃ cfg rx rest, d.reqs = .reset cfg rx :: rest ∧ d' = { d with reqs := rest }.create cfg rx) := by
  unfold DecState.move at e
  simp only [hp] at e
  rw [← hp] at e
  rcases hq : d.reqs with _ | ⟨max | ⟨cfg, rx⟩, rest⟩ <;> simp only [hq] at e
  · exact .inl ⟨rfl, (Host.Outcome.next.inj e).symm⟩
  · exact .inr (.inl ⟨max, rest, rfl, e⟩)
  · exact .inr (.inr ⟨cfg, rx, rest, rfl, (Host.Outcome.next.inj e).symm⟩)

/-- A Decoder in its traversal passes the entry at its cursor, or releases after the last (R114, R148). -/
theorem move_cases_of_s8 {d d' : DecState} (hp : d.phase = .s8Extract) (e : d.move = .next d') :
    d.release = .next d' ∨ ∃ x, d.work.ent[d.work.cursor]? = some x ∧
      ((x.len = 0 ∧ d' = d.skipEntry) ∨ (x.len ≠ 0 ∧ d.liveEntry x = .next d')) := by
  unfold DecState.move at e
  simp only [hp] at e
  cases hx : d.work.ent[d.work.cursor]? with
  | none => rw [hx] at e; exact .inl e
  | some x =>
    rw [hx] at e
    dsimp only at e
    refine .inr ⟨x, rfl, ?_⟩
    split at e
    next h0 => exact .inl ⟨h0, (Host.Outcome.next.inj e).symm⟩
    next h0 => exact .inr ⟨h0, e⟩

/-- Kept by every move but those of an idle Decoder, of step S1 and of the traversal. -/
theorem KeptBySteps.move {P : DecState → Prop} (k : KeptBySteps P) {d d' : DecState} (h : P d)
    (hidle : d.phase ≠ .idle) (h8 : d.phase ≠ .s8Extract) (h1 : d.phase = .s1Nth → P d.stepS1)
    (e : d.move = .next d') : P d' := by
  unfold DecState.move at e
  cases hp : d.phase <;> simp only [hp] at e
  case idle => exact absurd hp hidle
  case s1Nth => exact Host.Outcome.next.inj e ▸ h1 hp
  case s2Ndpf => exact Host.Outcome.next.inj e ▸ k.s2 d hp h
  case s3Norm => exact Host.Outcome.next.inj e ▸ k.s3 d hp h
  case s4Ent => exact Host.Outcome.next.inj e ▸ k.s4 d hp h
  case s5Pad => exact Host.Outcome.next.inj e ▸ k.s5 d hp h
  case s6Len => exact Host.Outcome.next.inj e ▸ k.s6 d hp h
  case s7Pay => exact Host.Outcome.next.inj e ▸ k.s7 d hp h
  case s8Extract => exact absurd hp h8
  case s9Serve => exact Host.Outcome.next.inj e ▸ k.s9 d hp h

end Sys2Proof.Machine
end

section
/-! SUPPORT. What an instruction other than RESET leaves of each direction, whatever the state. -/

namespace Sys2Proof.Machine

/-- A recorded status is not overwritten (R13, R200). -/
theorem stickDec_of_ne_none {f : DecFault} (h : f ≠ .none) (k : ErrorKind) : stickDec f k = f := by
  cases f with
  | none => exact absurd rfl h
  | _ => rfl

/-- A recorded status is not overwritten (R25, R200). -/
theorem stickEnc_of_ne_none {f : EncFault} (h : f ≠ .none) : stickEnc f = f := by
  cases f with
  | none => exact absurd rfl h
  | _ => rfl

/-- What every operation of the Decoder but RESET keeps: the configuration (R31), a recorded status
(R13), and the cursor in step with the stream (R15, R41). `claimed` bytes have to stand in RX: those of
a wire structure that `exec` is given (log 15). -/
structure DecFrame (claimed : Nat) (d d' : DecState) : Prop where
  cfg : d'.cfg = d.cfg
  sticky : d.fault ≠ .none → d'.fault = d.fault
  consumed : claimed ≤ d.rx.stream.length → ∃ n, n ≤ d.rx.stream.length ∧
    d'.rxCount = d.rxCount + n ∧ d'.rx.stream = d.rx.stream.drop n

namespace DecFrame

variable {n : Nat} {d d' d'' : DecState}

/-- An update of none of the framed fields. -/
theorem of_eq (hcfg : d'.cfg = d.cfg) (hfault : d'.fault = d.fault) (hcount : d'.rxCount = d.rxCount)
    (hstream : d'.rx.stream = d.rx.stream) : DecFrame 0 d d' :=
  ⟨hcfg, fun _ => hfault, fun _ => ⟨0, Nat.zero_le _, hcount, by rw [hstream, List.drop_zero]⟩⟩

theorem refl (d : DecState) : DecFrame 0 d d := of_eq rfl rfl rfl rfl

/-- One operation after another. -/
theorem trans (h : DecFrame n d d') (h' : DecFrame 0 d' d'') : DecFrame n d d'' where
  cfg := h'.cfg.trans h.cfg
  sticky hf := (h'.sticky (by rwa [h.sticky hf])).trans (h.sticky hf)
  consumed hn := by
    obtain ⟨m, hm, hcount, hstream⟩ := h.consumed hn
    obtain ⟨m', hm', hcount', hstream'⟩ := h'.consumed (Nat.zero_le _)
    rw [hstream, List.length_drop] at hm'
    exact ⟨m + m', by omega, by omega, by rw [hstream', hstream, List.drop_drop]⟩

/-- Where the claimed bytes are there, nothing is claimed. -/
theorem of_le (h : DecFrame n d d') (hn : n ≤ d.rx.stream.length) : DecFrame 0 d d' :=
  ⟨h.cfg, h.sticky, fun _ => h.consumed hn⟩

/-- An answered call takes its bytes and counts them (R15, R54). -/
theorem rxAdvance (n : Nat) (d : DecState) : DecFrame n d (d.rxAdvance n) :=
  ⟨rfl, fun _ => rfl, fun hn => ⟨n, hn, rfl, rfl⟩⟩

/-- A raise records the first status only (R200). -/
theorem raise (k : ErrorKind) (d : DecState) : DecFrame 0 d (d.raise k) :=
  ⟨by simp, fun hf => by simp [stickDec_of_ne_none hf], fun _ => ⟨0, Nat.zero_le _, by simp, by simp⟩⟩

/-- A reading step, where what follows the read keeps the frame. -/
theorem readThen {k : Bytes → DecState → DecState} (hn : 1 ≤ n)
    (hk : ∀ b e, DecFrame 0 e (k b e)) (d : DecState) : DecFrame 0 d (readThen n k d) := by
  rcases readThen_cases n hn k d with ⟨hl, e⟩ | ⟨m, _, hl, e⟩ | ⟨x, m, _, hl, e⟩ | ⟨v, e⟩ <;> rw [e]
  · exact ((rxAdvance n d).of_le hl).trans (hk _ _)
  · exact ((rxAdvance m d).of_le hl).trans (raise _ _)
  · have draw : DecFrame 0 (d.rxAdvance m) { d.rxAdvance m with draws := d.draws + 1 } :=
      of_eq rfl rfl rfl rfl
    exact (((rxAdvance m d).of_le hl).trans draw).trans (raise _ _)
  · exact of_eq rfl rfl rfl rfl

/-- Where the phase is set first, the frame is that of what follows. -/
theorem of_phase {p : Phase} (h : DecFrame n { d with phase := p } d') : DecFrame n d d' :=
  ⟨h.cfg, h.sticky, h.consumed⟩

theorem serve (d : DecState) : DecFrame 0 d d.serve :=
  of_eq d.serve_cfg d.serve_fault d.serve_rxCount (by rw [d.serve_rx])

theorem latchNth (h : Nth) (d : DecState) : DecFrame 0 d (d.latchNth h) := by
  unfold DecState.latchNth
  have latch : DecFrame 0 d { d with work := { d.work with nth := h } } := of_eq rfl rfl rfl rfl
  dsimp only
  split
  · exact of_eq rfl rfl rfl rfl
  · exact latch.trans (raise _ _)

theorem latchNdpf (p : Ndpf) (d : DecState) : DecFrame 0 d (d.latchNdpf p) := by
  unfold DecState.latchNdpf
  have latch : DecFrame 0 d { d with work := { d.work with ndp := p } } := of_eq rfl rfl rfl rfl
  dsimp only
  split
  · exact of_eq rfl rfl rfl rfl
  · exact latch.trans (raise _ _)

theorem latchPad (b0 b1 : Byte) (d : DecState) : DecFrame 0 d (d.latchPad b0 b1) :=
  of_eq rfl rfl rfl rfl

theorem latchEntries (t : Bytes) (d : DecState) : DecFrame 0 d (d.latchEntries t) :=
  of_eq rfl rfl rfl rfl

theorem latchPayload (b : Bytes) (d : DecState) : DecFrame 0 d (d.latchPayload b) :=
  of_eq rfl rfl rfl rfl

theorem skipEntry (d : DecState) : DecFrame 0 d d.skipEntry := of_eq rfl rfl rfl rfl

theorem stepS1 (d : DecState) : DecFrame 0 d d.stepS1 :=
  of_phase (readThen (by decide) (fun _ e => latchNth _ e) _)

theorem stepS2 (d : DecState) : DecFrame 0 d d.stepS2 :=
  of_phase (readThen (by decide) (fun _ e => latchNdpf _ e) _)

theorem stepS3 (d : DecState) : DecFrame 0 d d.stepS3 := of_eq rfl rfl rfl rfl

theorem stepS4 (d : DecState) : DecFrame 0 d d.stepS4 := by
  refine of_phase (p := .s4Ent) ?_
  unfold DecState.stepS4
  dsimp only
  split
  · exact raise _ _
  next n _ =>
    have count : DecFrame 0 { d with phase := .s4Ent }
        { d with phase := .s4Ent, work := { d.work with nEnt := n } } := of_eq rfl rfl rfl rfl
    refine count.trans ?_
    split
    · exact latchEntries _ _
    next hn => exact readThen (by simp only [Config.entryLen]; omega) (fun _ e => latchEntries _ e) _

theorem stepS5 (d : DecState) : DecFrame 0 d d.stepS5 :=
  of_phase (readThen (by decide) (fun _ e => latchPad _ _ e) _)

theorem stepS6 (d : DecState) : DecFrame 0 d d.stepS6 := by
  refine of_phase (p := .s6Len) ?_
  unfold DecState.stepS6
  dsimp only
  split
  · exact raise _ _
  · exact of_eq rfl rfl rfl rfl

theorem stepS7 (d : DecState) : DecFrame 0 d d.stepS7 := by
  refine of_phase (p := .s7Pay) ?_
  unfold DecState.stepS7
  dsimp only
  split
  · exact latchPayload _ _
  next hn => exact readThen (Nat.one_le_iff_ne_zero.mpr hn) (fun _ e => latchPayload _ e) _

theorem stepS8 (h : d.stepS8 = .next d') : DecFrame 0 d d' := by
  rcases stepS8_cases d with ⟨_, e⟩ | ⟨_, k, _, e⟩ | ⟨_, l, _, e⟩ <;> rw [e] at h <;> cases h
  · exact of_phase (raise _ _)
  · exact of_eq rfl rfl rfl rfl

theorem release (h : d.release = .next d') : DecFrame 0 d d' := by
  rcases release_cases d with ⟨_, e⟩ | e <;> rw [e] at h <;> cases h
  exact of_eq rfl rfl rfl rfl

theorem liveEntry {e : Entry} (h : d.liveEntry e = .next d') : DecFrame 0 d d' := by
  rcases liveEntry_cases e d with ⟨k, _, r⟩ | ⟨_, _, _, r⟩ | ⟨_, _, _, r⟩ <;> rw [r] at h <;> cases h
  · exact of_phase (raise _ _)
  · exact of_eq rfl rfl rfl rfl

theorem stepS9 (d : DecState) : DecFrame 0 d d.stepS9 := (serve d).trans (of_eq rfl rfl rfl rfl)

/-- From any state on, the steps of an NTB keep the frame. -/
theorem keptBySteps (d : DecState) : KeptBySteps (DecFrame 0 d) where
  s2 e _ h := h.trans (stepS2 e)
  s3 e _ h := h.trans (stepS3 e)
  s4 e _ h := h.trans (stepS4 e)
  s5 e _ h := h.trans (stepS5 e)
  s6 e _ h := h.trans (stepS6 e)
  s7 e _ h := h.trans (stepS7 e)
  s8 _ _ _ h he := h.trans (stepS8 he)
  release _ _ _ h he := h.trans (release he)
  s9 e _ h := h.trans (stepS9 e)

theorem decodeNtb (h : d.decodeNtb = .next d') : DecFrame 0 d d' :=
  (keptBySteps d).decodeNtb (stepS1 d) h

theorem read {max : Nat} (h : d.read max = .next d') : DecFrame 0 d d' := by
  have request : DecFrame 0 d { d with pend := some max } := of_eq rfl rfl rfl rfl
  exact (keptBySteps d).read (request.trans (serve _)) (request.trans (stepS1 _)) h

/-- A move of the Decoder keeps the frame, unless it takes up a RESET. -/
theorem move (h : d.move = .next d')
    (hr : d.phase = .idle → ∀ cfg rx rest, d.reqs ≠ .reset cfg rx :: rest) : DecFrame 0 d d' := by
  by_cases hp : d.phase = .idle
  · rcases move_cases_of_idle hp h with ⟨_, rfl⟩ | ⟨max, rest, _, e⟩ | ⟨cfg, rx, rest, hq, _⟩
    · exact refl _
    · have pop : DecFrame 0 d { d with reqs := rest } := of_eq rfl rfl rfl rfl
      exact pop.trans (read e)
    · exact absurd hq (hr hp cfg rx rest)
  by_cases h8 : d.phase = .s8Extract
  · rcases move_cases_of_s8 h8 h with e | ⟨x, _, ⟨_, rfl⟩ | ⟨_, e⟩⟩
    · exact release e
    · exact skipEntry d
    · exact liveEntry e
  exact (keptBySteps d).move (refl d) hp h8 (fun _ => stepS1 d) h

end DecFrame

/-- What every operation of the Encoder but RESET keeps: the configuration and a recorded status
(R24, R25). -/
structure EncFrame (e e' : EncState) : Prop where
  cfg : e'.cfg = e.cfg
  sticky : e.fault ≠ .none → e'.fault = e.fault

/-- A write, done, failed or not answered, keeps the frame and the counter (R173, R174). -/
theorem txWrite_frame (e : EncState) : EncFrame e (txWrite e) ∧ (txWrite e).seq = e.seq := by
  rcases txWrite_cases e with ⟨_, _, h⟩ | ⟨_, _, _, h⟩ | ⟨_, h⟩ <;> rw [h]
  · exact ⟨⟨rfl, fun _ => rfl⟩, rfl⟩
  · exact ⟨⟨rfl, fun hf => stickEnc_of_ne_none hf⟩, rfl⟩
  · exact ⟨⟨rfl, fun _ => rfl⟩, rfl⟩

/-- ENC.WRITE keeps the frame. -/
theorem write_frame {frame : Bytes} {e e' : EncState} (h : e.write frame = .next e') :
    EncFrame e e' := by
  unfold EncState.write at h
  split at h
  · cases h
  · split at h
    · cases h
    · obtain ⟨⟨hcfg, hfault⟩, _⟩ := txWrite_frame { e with
        seq := e.seq + 1, txbuf := ntb1 e.cfg e.seq frame, phase := .writing }
      cases h
      exact ⟨hcfg, hfault⟩

/-! ### The three kinds of instruction (R29, R100) -/

/-- The instruction is an operation of the Decoder that keeps its frame. -/
def LiftsDecFrame (i : Instr) (s : State) : Prop :=
  ∃ o, exec i s = s.withDec o ∧ ∀ d, o = .next d → DecFrame (rxTaken i) s.dec d

/-- An operation that always ends in a next state. -/
theorem LiftsDecFrame.of_next {i : Instr} {s : State} (d : DecState)
    (he : exec i s = s.withDec (.next d)) (h : DecFrame (rxTaken i) s.dec d) : LiftsDecFrame i s :=
  ⟨_, he, fun _ e => Host.Outcome.next.inj e ▸ h⟩

/-- PAYLOAD keeps the frame: it is refused, or takes the bytes it is given (R75, R64). -/
theorem liftsDecFrame_payload (bytes : Bytes) (s : State) : LiftsDecFrame (.payload bytes) s := by
  by_cases hl : bytes.length = s.dec.work.plen
  · by_cases h0 : bytes = []
    · subst h0
      exact .of_next ({ s.dec with phase := .s7Pay }.latchPayload [])
        (by simp [exec, execPayload, ← hl])
        (DecFrame.of_phase (n := 0) (p := .s7Pay) (.latchPayload [] _))
    · exact .of_next (({ s.dec with phase := .s7Pay }.rxAdvance bytes.length).latchPayload bytes)
        (by simp [exec, execPayload, hl, h0])
        (.of_phase ((DecFrame.rxAdvance _ _).trans (.latchPayload bytes _)))
  · exact ⟨.refused .outsideDomain, by simp [exec, execPayload, hl], fun _ e => nomatch e⟩

/-- A Decoder instruction but RESET is lifted from the Decoder and keeps its frame. -/
theorem exec_of_decoder (s : State) :
    ∀ i : Instr, agentOf i = some .dec → isReset i = false → LiftsDecFrame i s
  | .nth h, _, _ => .of_next (({ s.dec with phase := .s1Nth }.rxAdvance 12).latchNth h) rfl
      (.of_phase ((DecFrame.rxAdvance 12 _).trans (.latchNth h _)))
  | .ndpf p, _, _ => .of_next (({ s.dec with phase := .s2Ndpf }.rxAdvance 8).latchNdpf p) rfl
      (.of_phase ((DecFrame.rxAdvance 8 _).trans (.latchNdpf p _)))
  | .entryTerm, _, _ => .of_next s.dec.skipEntry rfl (.skipEntry _)
  | .entryZlen _, _, _ => .of_next s.dec.skipEntry rfl (.skipEntry _)
  | .entryLive idx len, _, _ => ⟨s.dec.liveEntry ⟨idx, len⟩, rfl, fun _ e => .liveEntry e⟩
  | .pad b0 b1, _, _ => .of_next (({ s.dec with phase := .s5Pad }.rxAdvance 2).latchPad b0 b1) rfl
      (.of_phase ((DecFrame.rxAdvance 2 _).trans (.latchPad b0 b1 _)))
  | .payload bytes, _, _ => liftsDecFrame_payload bytes s
  | .decRead max, _, _ => ⟨s.dec.read max, rfl, fun _ e => .read e⟩
  | .decNtb, _, _ => ⟨s.dec.decodeNtb, rfl, fun _ e => .decodeNtb e⟩
  | .decS1, _, _ => .of_next s.dec.stepS1 rfl (.stepS1 _)
  | .decS2, _, _ => .of_next s.dec.stepS2 rfl (.stepS2 _)
  | .decS3, _, _ => .of_next s.dec.stepS3 rfl (.stepS3 _)
  | .decS4, _, _ => .of_next s.dec.stepS4 rfl (.stepS4 _)
  | .decS5, _, _ => .of_next s.dec.stepS5 rfl (.stepS5 _)
  | .decS6, _, _ => .of_next s.dec.stepS6 rfl (.stepS6 _)
  | .decS7, _, _ => .of_next s.dec.stepS7 rfl (.stepS7 _)
  | .decS8, _, _ => ⟨s.dec.stepS8, rfl, fun _ e => .stepS8 e⟩
  | .decRelease, _, _ => ⟨s.dec.release, rfl, fun _ e => .release e⟩
  | .decS9, _, _ => .of_next s.dec.stepS9 rfl (.stepS9 _)
  | .reset _ _, _, hr => nomatch hr

/-- An Encoder instruction but RESET is lifted from the Encoder, keeps its frame, and keeps the counter
unless it is ENC.WRITE (R24, R172). -/
theorem exec_of_encoder (s : State) :
    ∀ i : Instr, agentOf i = some .enc → isReset i = false →
      ∃ o, exec i s = s.withEnc o ∧ ∀ e, o = .next e → EncFrame s.enc e ∧
        ((∀ frame, i ≠ .encWrite frame) → e.seq = s.enc.seq)
  | .ntb1 seq blen elen, _, _ => by
    obtain ⟨⟨hcfg, hfault⟩, hseq⟩ := txWrite_frame { s.enc with
      txbuf := ntb1Head s.enc.cfg seq blen elen ++ s.enc.txbuf.drop Config.encOverhead
      phase := .writing }
    exact ⟨_, rfl, fun _ h => Host.Outcome.next.inj h ▸ ⟨⟨hcfg, hfault⟩, fun _ => hseq⟩⟩
  | .encWrite frame, _, _ => ⟨_, rfl, fun _ h => ⟨write_frame h, fun hne => absurd rfl (hne frame)⟩⟩
  | .reset _ _, _, hr => nomatch hr

/-- A function of the shared traversal unit returns a result or is refused (R100). -/
theorem exec_of_function (s : State) :
    ∀ i : Instr, agentOf i = none → (∃ r, exec i s = s.returns r) ∨ ∃ r, exec i s = .refused r
  | .parseNTH b, _ => by
    by_cases h : b.length = Config.nthLen
    · exact .inl ⟨_, if_pos h⟩
    · exact .inr ⟨_, if_neg h⟩
  | .serNTH _, _ => .inl ⟨_, rfl⟩
  | .parseNDPF b, _ => by
    by_cases h : b.length = Config.ndpfLen
    · exact .inl ⟨_, if_pos h⟩
    · exact .inr ⟨_, if_neg h⟩
  | .serNDPF _, _ => .inl ⟨_, rfl⟩
  | .parseEntries t, _ => by
    by_cases h : t.length % Config.entryLen = 0
    · exact .inl ⟨_, if_pos h⟩
    · exact .inr ⟨_, if_neg h⟩
  | .serEntries _, _ => .inl ⟨_, rfl⟩
  | .normalise _ _, _ => .inl ⟨_, rfl⟩
  | .entryCount n, _ => by
    rw [exec, execEntryCount]
    cases entryCount n <;> exact .inl ⟨_, rfl⟩
  | .lengths hlen ndplen blen es, _ => by
    rw [exec, execLengths]
    cases lengths hlen ndplen blen es <;> exact .inl ⟨_, rfl⟩
  | .isSkipped _, _ => .inl ⟨_, rfl⟩
  | .translate e thl plen, _ => by
    rw [exec, execTranslate]
    cases translate e thl plen <;> exact .inl ⟨_, rfl⟩
  | .extract es thl plen payload, _ => by
    rw [exec, execExtract]
    split
    · exact .inr ⟨_, rfl⟩
    · cases extract es thl plen payload <;> exact .inl ⟨_, rfl⟩
  | .ntb1Build _ _ frame, _ => by
    by_cases h : Config.maxFrame < frame.length
    · exact .inr ⟨_, if_pos h⟩
    · exact .inl ⟨_, if_neg h⟩
  | .reset (.dec _) _, h => nomatch h
  | .reset (.enc _) _, h => nomatch h

/-- Everything an instruction other than RESET can do: write the Decoder within its frame, write the
Encoder within its frame, or return a function's result. -/
theorem exec_cases {i : Instr} {s t : State} (h : exec i s = .next t) (hr : isReset i = false) :
    (agentOf i = some .dec ∧ ∃ d, t = { s with dec := d } ∧ DecFrame (rxTaken i) s.dec d) ∨
    (agentOf i = some .enc ∧ ∃ e, t = { s with enc := e } ∧ EncFrame s.enc e ∧
      ((∀ frame, i ≠ .encWrite frame) → e.seq = s.enc.seq)) ∨
    (agentOf i = none ∧ ∃ r, t = { s with unit := r }) := by
  cases ha : agentOf i with
  | none =>
    rcases exec_of_function s i ha with ⟨r, e⟩ | ⟨r, e⟩
    · exact .inr (.inr ⟨rfl, r, State.returns_eq_next (e.symm.trans h)⟩)
    · cases e.symm.trans h
  | some a =>
    cases a with
    | dec =>
      obtain ⟨o, e, hf⟩ := exec_of_decoder s i ha hr
      obtain ⟨d, ho, ht⟩ := State.withDec_eq_next (e.symm.trans h)
      exact .inl ⟨rfl, d, ht, hf d ho⟩
    | enc =>
      obtain ⟨o, e, hf⟩ := exec_of_encoder s i ha hr
      obtain ⟨e', ho, ht⟩ := State.withEnc_eq_next (e.symm.trans h)
      exact .inr (.inl ⟨rfl, e', ht, hf e' ho⟩)

/-- RESET writes the direction it names and nothing else (R230, R231). -/
theorem execReset_cases {target : ResetTarget} {cfg : Cfg} {s t : State}
    (h : exec (.reset target cfg) s = .next t) :
    (∃ rx, target = .dec rx ∧ t = { s with dec := s.dec.create cfg rx }) ∨
    (∃ v, target = .enc v ∧ t = { s with enc := s.enc.create cfg v }) := by
  cases target <;> dsimp only [exec, execReset] at h <;> split at h <;> cases h
  · exact .inl ⟨_, rfl, rfl⟩
  · exact .inr ⟨_, rfl, rfl⟩

end Sys2Proof.Machine
end

section
/-! The statements about every instruction. -/

namespace Sys2Proof.Machine

/-- Settles O48: each direction's frame keeps its recorded status. -/
theorem faultStatusSticks : Obligations.FaultStatusSticks := by
  intro i s t h hr
  rcases exec_cases h hr with ⟨_, d, rfl, hd⟩ | ⟨_, e, rfl, he, _⟩ | ⟨_, r, rfl⟩
  · exact ⟨hd.sticky, fun _ => rfl⟩
  · exact ⟨fun _ => rfl, he.sticky⟩
  · exact ⟨fun _ => rfl, fun _ => rfl⟩

/-- Settles O49: each direction's frame keeps its configuration. -/
theorem configurationAndCounterWriters : Obligations.ConfigurationAndCounterWriters := by
  intro i s t h hr
  rcases exec_cases h hr with ⟨_, d, rfl, hd⟩ | ⟨_, e, rfl, he, hseq⟩ | ⟨_, r, rfl⟩
  · exact ⟨hd.cfg, rfl, fun _ => rfl⟩
  · exact ⟨rfl, he.cfg, hseq⟩
  · exact ⟨rfl, rfl, fun _ => rfl⟩

/-- Settles O50: RESET writes the direction it names, every other instruction that of its agent. -/
theorem directionsIsolated : Obligations.DirectionsIsolated := by
  intro i s t h
  cases hr : isReset i with
  | false =>
    rcases exec_cases h hr with ⟨ha, d, rfl, _⟩ | ⟨ha, e, rfl, _⟩ | ⟨_, r, rfl⟩
    · exact ⟨fun _ => rfl, fun hne => absurd ha hne, rfl⟩
    · exact ⟨fun hne => absurd ha hne, fun _ => rfl, rfl⟩
    · exact ⟨fun _ => rfl, fun _ => rfl, rfl⟩
  | true =>
    cases i <;> cases hr
    rcases execReset_cases h with ⟨rx, rfl, rfl⟩ | ⟨v, rfl, rfl⟩
    · exact ⟨fun _ => rfl, fun hne => absurd rfl hne, rfl⟩
    · exact ⟨fun hne => absurd rfl hne, fun _ => rfl, rfl⟩

/-- A step that takes up no RESET of the Decoder keeps its frame, with no structure to be claimed: a
structure is fetched with its bytes at hand. -/
theorem step_decFrame {s t : State} (h : step s = .next t)
    (hr : s.dec.phase = .idle → ∀ cfg rx rest, s.dec.reqs ≠ .reset cfg rx :: rest) :
    DecFrame 0 s.dec t.dec := by
  cases hs : s.sched with
  | nil => exact Host.Outcome.next.inj ((step_of_sched_nil hs).symm.trans h) ▸ .refl s.dec
  | cons a rest =>
    rw [step_of_sched_cons hs] at h
    cases a with
    | dec =>
      rw [turn_dec] at h
      obtain ⟨d, hd, rfl⟩ := State.withDec_eq_next h
      exact .move hd hr
    | enc =>
      rw [turn_enc] at h
      obtain ⟨e, _, rfl⟩ := State.withEnc_eq_next h
      exact .refl s.dec

/-- Settles O52: the Decoder's frame for an instruction, and for a step. -/
theorem inboundConsumedInOrder : Obligations.InboundConsumedInOrder := by
  refine ⟨fun i s t h hr hn => ?_, fun s t h hr => (step_decFrame h hr).consumed (Nat.zero_le _)⟩
  rcases exec_cases h hr with ⟨_, d, rfl, hd⟩ | ⟨_, e, rfl, _⟩ | ⟨_, r, rfl⟩
  · exact hd.consumed hn
  · exact (DecFrame.refl s.dec).consumed (Nat.zero_le _)
  · exact (DecFrame.refl s.dec).consumed (Nat.zero_le _)

end Sys2Proof.Machine
end

section
/-! SUPPORT. The pure functions the invariant speaks of: the table, the traversal, the results. -/

namespace Sys2Proof.Machine

/-- A table of whole entries has one entry per four bytes (R104). -/
theorem parseEntries_length : ∀ t : Bytes, (parseEntries t).length = t.length / 4
  | [] => rfl
  | [_] => by simp [parseEntries]
  | [_, _] => by simp [parseEntries]
  | [_, _, _] => by simp [parseEntries]
  | _ :: _ :: _ :: _ :: t => by
    have ih := parseEntries_length t
    simp only [parseEntries, List.length_cons, ih]
    omega

/-- A translated entry lies in the payload (R112). -/
theorem translate_ok_le {e : Entry} {thl plen off : Nat} (h : translate e thl plen = .ok off) :
    off + e.len.toNat ≤ plen := by
  unfold translate at h
  dsimp only at h
  split at h
  · cases h
  · split at h
    · cases h
    · cases h; omega

/-- The slice of a live entry inside the payload is not empty (R111, R112). -/
theorem slice_ne_nil_of_live {e : Entry} {thl plen off : Nat} {pay : Bytes}
    (ht : translate e thl plen = .ok off) (hl : isSkipped e = false) (hp : pay.length = plen) :
    slice pay off e.len.toNat ≠ [] := by
  have hin := translate_ok_le ht
  have hlen : e.len.toNat ≠ 0 := fun h0 => by
    have : e.len = 0 := BitVec.eq_of_toNat_eq h0
    simp [isSkipped, this] at hl
  intro h
  have hnil := congrArg List.length h
  simp only [slice, List.length_take, List.length_drop, List.length_nil] at hnil
  omega

/-- Everything Extract yields from a payload of `plen` bytes is a frame with bytes in it (R111, R114). -/
theorem extract_slices_ne_nil {thl plen : Nat} {pay : Bytes} (hp : pay.length = plen) :
    ∀ {es : List Entry} {l : List Bytes}, extract es thl plen pay = .ok l → ∀ f ∈ l, f ≠ []
  | [], _, h => by cases h; simp
  | e :: es, l, h => by
    rw [extract] at h
    cases hs : isSkipped e <;> simp only [hs, Bool.false_eq_true, if_true, if_false] at h
    · cases ht : translate e thl plen with
      | error k => simp [ht] at h
      | ok off =>
        cases hr : extract es thl plen pay with
        | error k => simp [ht, hr] at h
        | ok rest =>
          simp only [ht, hr, Except.ok.injEq] at h
          subst h
          simpa using ⟨slice_ne_nil_of_live ht hs hp, fun f hf => extract_slices_ne_nil hp hr f hf⟩
    · exact extract_slices_ne_nil hp h

/-- The traversal of a longer table goes on where that of its first part ended (R114). -/
theorem extract_append {thl plen : Nat} {pay : Bytes} (fs : List Entry) :
    ∀ {es : List Entry} {l : List Bytes}, extract es thl plen pay = .ok l →
      extract (es ++ fs) thl plen pay = (extract fs thl plen pay).map (l ++ ·)
  | [], _, h => by
    cases h
    cases hf : extract fs thl plen pay <;> simp [hf, Except.map]
  | e :: es, l, h => by
    rw [extract] at h
    rw [List.cons_append, extract]
    cases hs : isSkipped e <;> simp only [hs, Bool.false_eq_true, if_true, if_false] at h ⊢
    · cases ht : translate e thl plen with
      | error k => simp [ht] at h
      | ok off =>
        cases hr : extract es thl plen pay with
        | error k => simp [ht, hr] at h
        | ok rest =>
          simp only [ht, hr, Except.ok.injEq] at h
          subst h
          rw [extract_append fs hr]
          cases extract fs thl plen pay <;> rfl
    · exact extract_append fs h

/-- One more skipped entry adds nothing (R111). -/
theorem extract_concat_skipped {thl plen : Nat} {pay : Bytes} {es : List Entry} {l : List Bytes}
    {e : Entry} (h : extract es thl plen pay = .ok l) (hs : isSkipped e = true) :
    extract (es ++ [e]) thl plen pay = .ok l := by
  simp [extract_append [e] h, extract, hs, Except.map]

/-- One more live entry adds its slice (R112, R114). -/
theorem extract_concat_live {thl plen off : Nat} {pay : Bytes} {es : List Entry} {l : List Bytes}
    {e : Entry} (h : extract es thl plen pay = .ok l) (hs : isSkipped e = false)
    (ht : translate e thl plen = .ok off) :
    extract (es ++ [e]) thl plen pay = .ok (l ++ [slice pay off e.len.toNat]) := by
  simp [extract_append [e] h, extract, hs, ht, Except.map]

/-- A further result hands over its bytes after those before it (R23). -/
theorem served_append (as bs : List DecAnswer) : served (as ++ bs) = served as ++ served bs := by
  induction as with
  | nil => rfl
  | cons a as ih => cases a <;> simp [served, ih]

/-- A further `Ok` is no error (R13). -/
theorem firstDecError_concat_ok (as : List DecAnswer) (out : Bytes) :
    firstDecError (as ++ [.ok out]) = firstDecError as := by
  induction as with
  | nil => rfl
  | cons a as ih => cases a <;> simp [firstDecError, ih]

/-- A further error is recorded where there was none (R13, R200). -/
theorem firstDecError_concat_err (as : List DecAnswer) (k : ErrorKind) :
    firstDecError (as ++ [.err k]) = stickDec (firstDecError as) k := by
  induction as with
  | nil => rfl
  | cons a as ih =>
    cases a with
    | ok out => exact ih
    | err k' => cases k' <;> rfl

/-- A further `Ok` is no error (R25). -/
theorem firstEncError_concat_ok (as : List EncAnswer) :
    firstEncError (as ++ [.ok]) = firstEncError as := by
  induction as with
  | nil => rfl
  | cons a as ih => cases a <;> simp [firstEncError, ih]

/-- A further error is recorded where there was none (R25, R200). -/
theorem firstEncError_concat_err (as : List EncAnswer) (x : TransportErr) :
    firstEncError (as ++ [.err x]) = stickEnc (firstEncError as) := by
  induction as with
  | nil => rfl
  | cons a as ih =>
    cases a with
    | ok => exact ih
    | err x' => rfl

end Sys2Proof.Machine
end

section
/-! SUPPORT. The Decoder's invariant through its steps: the part that no step but a release, a raise and a
serve writes (`Ledger`), and the working registers, phase by phase. -/

namespace Sys2Proof.Machine

/-- The part of the Decoder's invariant that is about what was released, delivered and recorded. -/
structure Ledger (log : List Bytes) (answers : List DecAnswer) (q : Bytes) (fault : DecFault) :
    Prop where
  stream : log.flatten = served answers ++ q
  sticky : fault = firstDecError answers
  nonempty : ∀ f ∈ log, f ≠ []

namespace Ledger

variable {log : List Bytes} {answers : List DecAnswer} {q : Bytes} {fault : DecFault}

/-- Nothing has happened yet (R31). -/
theorem empty : Ledger [] [] [] .none := ⟨rfl, rfl, by simp⟩

/-- An error hands over nothing and is recorded if it is the first (R200). -/
theorem raise (h : Ledger log answers q fault) (k : ErrorKind) :
    Ledger log (answers ++ [.err k]) q (stickDec fault k) where
  stream := by simp [served_append, served, h.stream]
  sticky := by rw [firstDecError_concat_err, h.sticky]
  nonempty := h.nonempty

/-- A served read moves bytes from the head of the queue to the results (R149). -/
theorem serve (h : Ledger log answers q fault) (k : Nat) :
    Ledger log (answers ++ [.ok (q.take k)]) (q.drop k) fault where
  stream := by simp [served_append, served, h.stream]
  sticky := by rw [firstDecError_concat_ok, h.sticky]
  nonempty := h.nonempty

/-- A release appends the same bytes to the log and to the queue (R148). -/
theorem release (h : Ledger log answers q fault) {slices : List Bytes} (hs : ∀ f ∈ slices, f ≠ []) :
    Ledger (log ++ slices) answers (q ++ slices.flatten) fault where
  stream := by simp [h.stream]
  sticky := h.sticky
  nonempty f hf := (List.mem_append.mp hf).elim (h.nonempty f) (hs f)

end Ledger

/-- The Decoder's ledger. -/
abbrev DecState.ledger (d : DecState) : Prop := Ledger d.framesLog d.answers d.q d.fault

theorem DecInv.ledger {d : DecState} (h : DecInv d) : d.ledger := ⟨h.stream, h.sticky, h.nonempty⟩

/-- While the Decoder is not idle a read is outstanding (R14). -/
theorem DecInv.pend_ne_none {d : DecState} (h : DecInv d) (hp : d.phase ≠ .idle) : d.pend ≠ none :=
  fun hn => hp (h.outstanding.mpr hn)

/-- An idle Decoder's working registers are under no condition. -/
theorem WorkInv.of_idle {d : DecState} (hp : d.phase = .idle) : WorkInv d := by
  constructor <;> intro h <;> rw [hp] at h <;> cases h

/-- A Decoder that has ended its operation. -/
theorem DecInv.of_idle {d : DecState} (hl : d.ledger) (hp : d.phase = .idle) (hn : d.pend = none) :
    DecInv d :=
  ⟨hl.stream, hl.sticky, by simp [hp, hn], hl.nonempty, .of_idle hp⟩

/-- A Decoder in the middle of an operation. -/
theorem DecInv.of_busy {d : DecState} (hl : d.ledger) (hp : d.phase ≠ .idle) (hn : d.pend ≠ none)
    (hw : WorkInv d) : DecInv d :=
  ⟨hl.stream, hl.sticky, by simp [hp, hn], hl.nonempty, hw⟩

/-- A raise ends the operation with its error in the ledger, whatever the working registers hold
(R200). -/
theorem DecInv.raise {d : DecState} (k : ErrorKind) (hl : d.ledger) (hn : d.pend ≠ none) :
    DecInv (d.raise k) := by
  refine .of_idle ?_ (d.raise_phase k) (d.raise_pend k)
  simpa [DecState.ledger, hn] using hl.raise k

/-- A served read ends the operation (R149). -/
theorem DecInv.serve {d : DecState} (hl : d.ledger) (hn : d.pend ≠ none) : DecInv d.serve := by
  obtain ⟨max, hmax⟩ := Option.ne_none_iff_exists'.mp hn
  obtain ⟨hq, ha⟩ := serve_eq hmax
  refine .of_idle ?_ d.serve_phase d.serve_pend
  simpa [DecState.ledger, hq, ha] using hl.serve (min max d.q.length)

/-- A state that already stands in a phase is unchanged by setting it. -/
theorem at_phase {P : DecState → Prop} {d : DecState} {p : Phase} (hp : d.phase = p) (h : P d) :
    P { d with phase := p } := by subst hp; exact h

/-- No clause is about the transport or the free values. -/
theorem DecInv.of_transport {d : DecState} (h : DecInv d) (rx : RxLine) (count draws : Nat) :
    DecInv { d with rx := rx, rxCount := count, draws := draws } := by
  obtain ⟨hns, hds, hdl, htab, hlen, hst⟩ := h.work
  exact ⟨h.stream, h.sticky, h.outstanding, h.nonempty, ⟨hns, hds, hdl, htab, hlen, hst⟩⟩

/-- A reading step from a busy Decoder: it raises, holds, or goes on with as many bytes as asked for. -/
theorem readThen_inv {n : Nat} {k : Bytes → DecState → DecState} {d : DecState} (hn : 1 ≤ n)
    (h : DecInv d) (hp : d.phase ≠ .idle)
    (hk : ∀ b : Bytes, b.length = n → DecInv (d.rxAdvance n) → DecInv (k b (d.rxAdvance n))) :
    DecInv (readThen n k d) := by
  have hpend := h.pend_ne_none hp
  rcases readThen_cases n hn k d with ⟨hl, e⟩ | ⟨m, _, _, e⟩ | ⟨x, m, _, _, e⟩ | ⟨v, e⟩ <;> rw [e]
  · exact hk _ (by simp [hl]) (h.of_transport _ _ _)
  · exact .raise _ h.ledger hpend
  · exact .raise _ h.ledger hpend
  · exact h.of_transport _ _ _

theorem latchNth_inv (n : Nth) {d : DecState} (hl : d.ledger) (hn : d.pend ≠ none) :
    DecInv (d.latchNth n) := by
  unfold DecState.latchNth
  dsimp only
  split
  next hsig => exact .of_busy hl nofun hn ⟨fun _ => hsig, nofun, nofun, nofun, nofun, nofun⟩
  next => exact .raise _ hl hn

theorem stepS1_inv {d : DecState} (h : DecInv { d with phase := .s1Nth }) : DecInv d.stepS1 :=
  readThen_inv (by decide) h nofun fun _ _ h' => latchNth_inv _ h'.ledger (h'.pend_ne_none nofun)

theorem latchNdpf_inv (p : Ndpf) {d : DecState} (h : DecInv { d with phase := .s2Ndpf }) :
    DecInv (d.latchNdpf p) := by
  have hpend := h.pend_ne_none nofun
  unfold DecState.latchNdpf
  dsimp only
  split
  next hsig =>
    exact .of_busy h.ledger nofun hpend
      ⟨fun _ => h.work.nthSig rfl, fun _ => hsig, nofun, nofun, nofun, nofun⟩
  next => exact .raise _ h.ledger hpend

theorem stepS2_inv {d : DecState} (h : DecInv { d with phase := .s2Ndpf }) : DecInv d.stepS2 :=
  readThen_inv (by decide) h nofun fun _ _ h' => latchNdpf_inv _ h'

theorem stepS3_inv {d : DecState} (h : DecInv { d with phase := .s3Norm }) : DecInv d.stepS3 :=
  .of_busy h.ledger nofun (h.pend_ne_none nofun)
    ⟨fun _ => h.work.nthSig rfl, fun _ => h.work.ndpSig rfl, fun _ => rfl, nofun, nofun, nofun⟩

/-- The table is there: as many entries as were counted (R143). -/
theorem latchEntries_inv {t : Bytes} {d : DecState} (h : DecInv { d with phase := .s4Ent })
    (hn : entryCount d.work.ndpLen = .ok d.work.nEnt) (ht : t.length = 4 * d.work.nEnt) :
    DecInv (d.latchEntries t) :=
  .of_busy h.ledger nofun (h.pend_ne_none nofun)
    ⟨fun _ => h.work.nthSig rfl, fun _ => h.work.ndpSig rfl, fun _ => h.work.ndpLen rfl,
      fun _ => ⟨hn, show (parseEntries t).length = d.work.nEnt by rw [parseEntries_length]; omega⟩,
      nofun, nofun⟩

theorem stepS4_inv {d : DecState} (h : DecInv { d with phase := .s4Ent }) : DecInv d.stepS4 := by
  have hpend := h.pend_ne_none nofun
  unfold DecState.stepS4
  dsimp only
  cases hc : entryCount d.work.ndpLen with
  | error k => exact .raise _ h.ledger hpend
  | ok n =>
    have counted : DecInv { d with phase := .s4Ent, work := { d.work with nEnt := n } } :=
      .of_busy h.ledger nofun hpend
        ⟨fun _ => h.work.nthSig rfl, fun _ => h.work.ndpSig rfl, fun _ => h.work.ndpLen rfl, nofun,
          nofun, nofun⟩
    dsimp only
    split
    next h0 => exact latchEntries_inv counted hc (by simp [h0])
    next h0 =>
      exact readThen_inv (by simp only [Config.entryLen]; omega) counted nofun fun _ ht h' =>
        latchEntries_inv h' hc ht

theorem latchPad_inv (b0 b1 : Byte) {d : DecState} (h : DecInv { d with phase := .s5Pad }) :
    DecInv (d.latchPad b0 b1) :=
  .of_busy h.ledger nofun (h.pend_ne_none nofun)
    ⟨fun _ => h.work.nthSig rfl, fun _ => h.work.ndpSig rfl, fun _ => h.work.ndpLen rfl,
      fun _ => h.work.table rfl, nofun, nofun⟩

theorem stepS5_inv {d : DecState} (h : DecInv { d with phase := .s5Pad }) : DecInv d.stepS5 :=
  readThen_inv (by decide) h nofun fun _ _ h' => latchPad_inv _ _ h'

theorem stepS6_inv {d : DecState} (h : DecInv { d with phase := .s6Len }) : DecInv d.stepS6 := by
  have hpend := h.pend_ne_none nofun
  unfold DecState.stepS6
  dsimp only
  cases hl : lengths d.work.nth.hlen d.work.ndpLen d.work.nth.blen d.work.ent with
  | error k => exact .raise _ h.ledger hpend
  | ok p =>
    exact .of_busy h.ledger nofun hpend
      ⟨fun _ => h.work.nthSig rfl, fun _ => h.work.ndpSig rfl, fun _ => h.work.ndpLen rfl,
        fun _ => h.work.table rfl, fun _ => hl, nofun⟩

/-- The payload is there in full, and nothing of it is staged yet (R146, R22). -/
theorem latchPayload_inv {b : Bytes} {d : DecState} (h : DecInv { d with phase := .s7Pay })
    (hb : b.length = d.work.plen) : DecInv (d.latchPayload b) :=
  .of_busy h.ledger nofun (h.pend_ne_none nofun)
    ⟨fun _ => h.work.nthSig rfl, fun _ => h.work.ndpSig rfl, fun _ => h.work.ndpLen rfl,
      fun _ => h.work.table rfl, fun _ => h.work.lengths rfl,
      fun _ => ⟨hb, Nat.zero_le _, rfl, rfl⟩⟩

theorem stepS7_inv {d : DecState} (h : DecInv { d with phase := .s7Pay }) : DecInv d.stepS7 := by
  unfold DecState.stepS7
  dsimp only
  split
  next h0 => exact latchPayload_inv h h0.symm
  next h0 =>
    exact readThen_inv (Nat.one_le_iff_ne_zero.mpr h0) h nofun fun _ hb h' => latchPayload_inv h' hb

/-- The traversal may stage further: what it has staged is what Extract yields of the entries it has
passed (R114, R147). -/
theorem DecInv.staged {d : DecState} (h : DecInv { d with phase := .s8Extract }) {l : List Bytes}
    {c : Nat} (hc : c ≤ d.work.ent.length)
    (hl : extract (d.work.ent.take c) d.work.thl d.work.plen d.work.payload = .ok l) :
    DecInv { d with
      phase := .s8Extract
      work := { d.work with stage := l.flatten, slices := l, cursor := c } } :=
  .of_busy h.ledger nofun (h.pend_ne_none nofun)
    ⟨h.work.nthSig, h.work.ndpSig, h.work.ndpLen, h.work.table, h.work.lengths,
      fun _ => ⟨(h.work.staged rfl).1, hc, hl, rfl⟩⟩

theorem stepS8_inv {d d' : DecState} (h : DecInv { d with phase := .s8Extract })
    (e : d.stepS8 = .next d') : DecInv d' := by
  rcases stepS8_cases d with ⟨_, r⟩ | ⟨_, k, _, r⟩ | ⟨_, l, hl, r⟩ <;> rw [r] at e <;> cases e
  · exact .raise _ h.ledger (h.pend_ne_none nofun)
  · exact h.staged le_rfl (by rw [List.take_length, hl])

/-- The entries up to and with the one at the cursor. -/
theorem take_cursor_succ {es : List Entry} {c : Nat} {e : Entry} (h : es[c]? = some e) :
    c + 1 ≤ es.length ∧ es.take (c + 1) = es.take c ++ [e] := by
  obtain ⟨hc, _⟩ := List.getElem?_eq_some_iff.mp h
  exact ⟨hc, by rw [List.take_add_one, h]; rfl⟩

theorem skipEntry_inv {d : DecState} {e : Entry} (h : DecInv { d with phase := .s8Extract })
    (he : d.work.ent[d.work.cursor]? = some e) (h0 : e.len = 0) : DecInv d.skipEntry := by
  obtain ⟨_, _, hext, hstage⟩ := h.work.staged rfl
  obtain ⟨hc, htake⟩ := take_cursor_succ he
  have hs : extract (d.work.ent.take (d.work.cursor + 1)) d.work.thl d.work.plen d.work.payload =
      .ok d.work.slices := by
    rw [htake]; exact extract_concat_skipped hext (by simp [isSkipped, h0])
  have hstaged := h.staged hc hs
  rwa [← hstage] at hstaged

theorem liveEntry_inv {d d' : DecState} {e : Entry} (h : DecInv { d with phase := .s8Extract })
    (he : d.work.ent[d.work.cursor]? = some e) (h0 : e.len ≠ 0) (r : d.liveEntry e = .next d') :
    DecInv d' := by
  obtain ⟨_, _, hext, hstage⟩ := h.work.staged rfl
  obtain ⟨hc, htake⟩ := take_cursor_succ he
  rcases liveEntry_cases e d with ⟨k, _, r'⟩ | ⟨_, _, _, r'⟩ | ⟨off, ht, _, r'⟩ <;> rw [r'] at r <;>
    cases r
  · exact .raise _ h.ledger (h.pend_ne_none nofun)
  · have hs : extract (d.work.ent.take (d.work.cursor + 1)) d.work.thl d.work.plen d.work.payload =
        .ok (d.work.slices ++ [slice d.work.payload off e.len.toNat]) := by
      rw [htake]; exact extract_concat_live hext (by simpa [isSkipped] using h0) ht
    have hstaged := h.staged hc hs
    rwa [List.flatten_concat, ← hstage] at hstaged

theorem release_inv {d d' : DecState} (h : DecInv { d with phase := .s8Extract })
    (e : d.release = .next d') : DecInv d' := by
  obtain ⟨hpay, _, hext, hstage⟩ := h.work.staged rfl
  have hslices : ∀ f ∈ d.work.slices, f ≠ [] := extract_slices_ne_nil hpay hext
  rcases release_cases d with ⟨_, r⟩ | r <;> rw [r] at e <;> cases e
  refine .of_busy ?_ nofun (h.pend_ne_none nofun) ⟨nofun, nofun, nofun, nofun, nofun, nofun⟩
  have hreleased := h.ledger.release hslices
  rwa [← hstage] at hreleased

theorem stepS9_inv {d : DecState} (h : DecInv { d with phase := .s9Serve }) : DecInv d.stepS9 := by
  have hserved : DecInv d.serve := .serve h.ledger (h.pend_ne_none nofun)
  exact .of_idle hserved.ledger d.serve_phase d.serve_pend

/-- The steps of an NTB keep the Decoder's invariant. -/
theorem decInv_keptBySteps : KeptBySteps DecInv where
  s2 _ hp h := stepS2_inv (at_phase hp h)
  s3 _ hp h := stepS3_inv (at_phase hp h)
  s4 _ hp h := stepS4_inv (at_phase hp h)
  s5 _ hp h := stepS5_inv (at_phase hp h)
  s6 _ hp h := stepS6_inv (at_phase hp h)
  s7 _ hp h := stepS7_inv (at_phase hp h)
  s8 _ _ hp h e := stepS8_inv (at_phase hp h) e
  release _ _ hp h e := release_inv (at_phase hp h) e
  s9 _ hp h := stepS9_inv (at_phase hp h)

/-- A read, from the queue or after one NTB, ends in a state of the invariant (R131, R132). -/
theorem read_inv {max : Nat} {d d' : DecState} (h : d.ledger) (e : d.read max = .next d') :
    DecInv d' :=
  decInv_keptBySteps.read (.serve h nofun)
    (stepS1_inv (.of_busy h nofun nofun ⟨nofun, nofun, nofun, nofun, nofun, nofun⟩)) e

/-- A new Decoder satisfies the invariant, whatever it was before (R230). -/
theorem create_inv (cfg : Cfg) (rx : RxLine) (d : DecState) : DecInv (d.create cfg rx) :=
  .of_idle .empty rfl rfl

/-- Every move of the Decoder keeps its invariant. -/
theorem DecInv.move {d d' : DecState} (h : DecInv d) (e : d.move = .next d') : DecInv d' := by
  by_cases hp : d.phase = .idle
  · rcases move_cases_of_idle hp e with ⟨_, rfl⟩ | ⟨max, rest, _, hread⟩ | ⟨cfg, rx, rest, _, rfl⟩
    · exact h
    · have pop : { d with reqs := rest }.ledger := h.ledger
      exact read_inv pop hread
    · exact create_inv cfg rx _
  by_cases h8 : d.phase = .s8Extract
  · have h' := at_phase h8 h
    rcases move_cases_of_s8 h8 e with hrel | ⟨x, hx, ⟨h0, rfl⟩ | ⟨h0, hlive⟩⟩
    · exact release_inv h' hrel
    · exact skipEntry_inv h' hx h0
    · exact liveEntry_inv h' hx h0 hlive
  exact decInv_keptBySteps.move h hp h8 (fun h1 => stepS1_inv (at_phase h1 h)) e

end Sys2Proof.Machine
end

section
/-! SUPPORT. The Encoder's invariant through its moves. -/

namespace Sys2Proof.Machine

/-- A write that is outstanding keeps the invariant, whatever its outcome: the counter has counted its
NTB already, and the whole of it goes out or none of it is logged (R172, R173, R174). -/
theorem txWrite_inv {e : EncState} (h : EncInv e) (hp : e.phase = .writing) : EncInv (txWrite e) := by
  have hcount : e.seq = e.cfg.seqInit + BitVec.ofNat 16 (e.answers.length + 1) := by
    rw [h.counter, hp]; rfl
  have answered (a : EncAnswer) :
      e.seq = e.cfg.seqInit + BitVec.ofNat 16 ((e.answers ++ [a]).length + EncPhase.idle.count) := by
    rw [hcount, List.length_append]; rfl
  rcases txWrite_cases e with ⟨rest, _, r⟩ | ⟨x, rest, _, r⟩ | ⟨v, r⟩ <;> rw [r]
  · obtain ⟨frame, hlen, hbuf⟩ := h.buffer hp
    constructor
    case counter => exact answered .ok
    case sticky => exact h.sticky.trans (firstEncError_concat_ok _).symm
    case buffer => exact nofun
    case log =>
      intro b hb
      rcases List.mem_append.mp hb with hb | hb
      · exact h.log b hb
      · exact ⟨e.seq - 1, frame, hlen, (List.mem_singleton.mp hb).trans hbuf⟩
    case delivered =>
      intro hf
      simp [h.delivered hf]
  · constructor
    case counter => exact answered (.err x)
    case sticky => exact (congrArg stickEnc h.sticky).trans (firstEncError_concat_err _ x).symm
    case buffer => exact nofun
    case log => exact h.log
    case delivered =>
      intro hf
      have hf' : stickEnc e.fault = .none := hf
      cases hq : e.fault <;> rw [hq] at hf' <;> cases hf'
  · exact ⟨h.counter, h.sticky, h.buffer, h.log, h.delivered⟩

/-- ENC.WRITE keeps the invariant (R170, R172). -/
theorem write_inv {frame : Bytes} {e e' : EncState} (h : EncInv e) (r : e.write frame = .next e') :
    EncInv e' := by
  unfold EncState.write at r
  split at r
  · cases r
  next hp =>
    have hidle : e.phase = .idle := not_not.mp hp
    split at r
    · cases r
    next hlen =>
      rw [← Host.Outcome.next.inj r]
      refine txWrite_inv ⟨?counter, h.sticky, ?buffer, h.log, h.delivered⟩ rfl
      case counter =>
        have hcount : e.seq = e.cfg.seqInit + BitVec.ofNat 16 e.answers.length := by
          rw [h.counter, hidle]; rfl
        change e.seq + 1 = e.cfg.seqInit + BitVec.ofNat 16 (e.answers.length + 1)
        rw [hcount, BitVec.ofNat_add, ← BitVec.add_assoc]
        rfl
      case buffer => exact fun _ => ⟨frame, Nat.not_lt.mp hlen, by simp⟩

/-- Every move of the Encoder keeps its invariant. -/
theorem EncInv.move {e e' : EncState} (h : EncInv e) (r : e.move = .next e') : EncInv e' := by
  unfold EncState.move at r
  cases hp : e.phase <;> simp only [hp] at r
  case idle =>
    rw [← hp] at r
    rcases hq : e.reqs with _ | ⟨frame | ⟨cfg, v⟩, rest⟩ <;> simp only [hq] at r
    · exact Host.Outcome.next.inj r ▸ h
    · have pop : EncInv { e with reqs := rest } :=
        ⟨h.counter, h.sticky, h.buffer, h.log, h.delivered⟩
      exact write_inv pop r
    · rw [← Host.Outcome.next.inj r]
      exact ⟨by simp [EncPhase.count], rfl, nofun, by simp, fun _ => rfl⟩
  case writing =>
    split at r
    · exact Host.Outcome.next.inj r ▸ txWrite_inv h hp
    · cases r

end Sys2Proof.Machine
end

section
/-! The statements about the invariant. -/

namespace Sys2Proof.Machine

/-- A turn of either agent keeps the invariant: it is that agent's move, and the other is not touched. -/
theorem Invariant.turn {a : Agent} {s t : State} (h : Invariant s) (e : turn a s = .next t) :
    Invariant t := by
  cases a with
  | dec =>
    rw [turn_dec] at e
    obtain ⟨d, hd, rfl⟩ := State.withDec_eq_next e
    exact ⟨h.dec.move hd, h.enc⟩
  | enc =>
    rw [turn_enc] at e
    obtain ⟨x, hx, rfl⟩ := State.withEnc_eq_next e
    exact ⟨h.dec, h.enc.move hx⟩

/-- Settles O55: the step is a turn of the agent the schedule names, or nothing. -/
theorem invariantKept : Obligations.InvariantKept := by
  intro s t h e
  cases hs : s.sched with
  | nil => exact Host.Outcome.next.inj ((step_of_sched_nil hs).symm.trans e) ▸ h
  | cons a rest =>
    have h' : Invariant { s with sched := rest } := ⟨h.dec, h.enc⟩
    exact h'.turn ((step_of_sched_cons hs).symm.trans e)

/-- Settles O54: both directions are idle and nothing has been released, delivered or counted. -/
theorem invariantAtReset : Obligations.InvariantAtReset where
  dec := .of_idle .empty rfl rfl
  enc := ⟨by decide, rfl, nofun, nofun, fun _ => rfl⟩

end Sys2Proof.Machine
end

section
/-! SUPPORT. The reading steps, each as the one call it makes, and the calls that the transports do not
answer (R41, R43, R63). -/

namespace Sys2Proof.Machine

/-! ### Calls without an answer -/

/-- Under `wait` an `RxRead` is not answered, and nothing but the verdict is used up (R63; log 8). -/
theorem rxRead_of_wait {n : Nat} {d : DecState} {rest : List RxVerdict}
    (h : d.rx.verdicts = .wait :: rest) :
    rxRead n d = (.hold, { d with rx := { d.rx with verdicts := rest } }) := by
  simp [rxRead, h]

/-- Where too few bytes are there and more may come, an `RxRead` is not answered (R41, R63). -/
theorem rxRead_of_starved {n : Nat} {d : DecState} (hs : Serving d.rx) (he : d.rx.ended = false)
    (hn : d.rx.stream.length < n) : rxRead n d = (.hold, d) := by
  rw [rxRead_of_serving hs]
  rcases rxServe_cases n d with ⟨hle, _⟩ | ⟨_, hend, _⟩ | ⟨_, _, hhold⟩
  · omega
  · cases he.symm.trans hend
  · exact hhold

/-- An unanswered reading step stays where its call left the Decoder (R63). -/
theorem readThen_of_hold {n : Nat} {d d' : DecState} (h : rxRead n d = (.hold, d'))
    (k : Bytes → DecState → DecState) : readThen n k d = d' := by
  simp [readThen, h]

/-- An unanswered `TxWrite` uses up the verdict, if one is listed, and nothing else (R43, R63). -/
theorem txWrite_of_unanswered {e : EncState}
    (h : e.tx.verdicts = [] ∨ ∃ rest, e.tx.verdicts = .wait :: rest) :
    txWrite e = { e with tx := { e.tx with verdicts := e.tx.verdicts.tail } } := by
  rcases h with h | ⟨rest, h⟩
  · have same : e.tx.verdicts.tail = e.tx.verdicts := by rw [h]; rfl
    have stays : txWrite e = e := by simp [txWrite, h]
    rw [stays, same]
  · simp [txWrite, h]

/-- An idle Encoder given a frame in the domain counts it, builds its NTB and hands it over (R170). -/
theorem write_of_idle {frame : Bytes} {e : EncState} (hp : e.phase = .idle)
    (hl : frame.length ≤ 65505) :
    e.write frame = .next (txWrite { e with
      seq := e.seq + 1, txbuf := ntb1 e.cfg e.seq frame, phase := .writing }) := by
  have hmax : ¬ Config.maxFrame < frame.length := Nat.not_lt.mpr hl
  simp [EncState.write, hp, hmax]

/-- ENC.WRITE without an answer has counted its frame and built its NTB, and stands in the call (R63,
R170). -/
theorem write_of_unanswered {frame : Bytes} {e : EncState} (hp : e.phase = .idle)
    (hl : frame.length ≤ 65505) (hv : e.tx.verdicts = [] ∨ ∃ rest, e.tx.verdicts = .wait :: rest) :
    e.write frame = .next { e with
      seq := e.seq + 1
      txbuf := ntb1 e.cfg e.seq frame
      phase := .writing
      tx := { e.tx with verdicts := e.tx.verdicts.tail } } :=
  (write_of_idle hp hl).trans (congrArg Host.Outcome.next (txWrite_of_unanswered hv))

/-! ### S4 and S7, which may have nothing to ask for (R64) -/

/-- S4 on an empty table latches it without a call (R143, R64). -/
theorem stepS4_of_no_entries {d : DecState} (h : entryCount d.work.ndpLen = .ok 0) :
    d.stepS4 = { d with work := { d.work with nEnt := 0, ent := [] }, phase := .s5Pad } := by
  simp [DecState.stepS4, h, DecState.latchEntries, parseEntries]

/-- S4 on `c` entries counts them and asks for `4 * c` bytes (R143). -/
theorem stepS4_of_entries {d : DecState} {c : Nat} (h : entryCount d.work.ndpLen = .ok c)
    (hc : c ≠ 0) :
    d.stepS4 = readThen (4 * c) (fun t d => d.latchEntries t)
      { d with phase := .s4Ent, work := { d.work with nEnt := c } } := by
  simp [DecState.stepS4, h, hc, Config.entryLen]

/-- S7 on an empty payload latches it without a call (R146, R64). -/
theorem stepS7_of_no_payload {d : DecState} (h : d.work.plen = 0) :
    d.stepS7 = { d with phase := .s7Pay }.latchPayload [] := by
  simp [DecState.stepS7, h]

/-- S7 on a payload asks for its `plen` bytes (R146). -/
theorem stepS7_of_payload {d : DecState} (h : d.work.plen ≠ 0) :
    d.stepS7 = readThen d.work.plen (fun b d => d.latchPayload b) { d with phase := .s7Pay } := by
  simp [DecState.stepS7, h]

/-! ### A reading step up to its call -/

/-- The Decoder as step `i` leaves it when it issues its read of `n` bytes in phase `p`: S4 alone has
written a register before, `n_ent` (R143). `exec_of_readsOf` ties it to the machine. -/
def DecState.calling (i : Instr) (p : Phase) (n : Nat) (d : DecState) : DecState :=
  { d with
    phase := p
    work := if i = .decS4 then { d.work with nEnt := n / 4 } else d.work }

@[simp] theorem DecState.calling_ndpLen (i : Instr) (p : Phase) (n : Nat) (d : DecState) :
    (d.calling i p n).work.ndpLen = d.work.ndpLen := by
  unfold DecState.calling; split <;> rfl

@[simp] theorem DecState.calling_plen (i : Instr) (p : Phase) (n : Nat) (d : DecState) :
    (d.calling i p n).work.plen = d.work.plen := by
  unfold DecState.calling; split <;> rfl

/-- S4 asks for bytes only where its table has entries, four for each (R143, R64). -/
theorem readsOf_decS4_eq_some {d : DecState} {n : Nat} (h : readsOf d .decS4 = some n) :
    ∃ c, entryCount d.work.ndpLen = .ok c ∧ c ≠ 0 ∧ n = 4 * c := by
  cases hc : entryCount d.work.ndpLen with
  | error k => simp [readsOf, hc] at h
  | ok c =>
    by_cases h0 : c = 0
    · simp [readsOf, hc, h0] at h
    · exact ⟨c, rfl, h0, by simpa [readsOf, hc, h0, eq_comm] using h⟩

/-- S7 asks for bytes only where there is a payload, `plen` of them (R146, R64). -/
theorem readsOf_decS7_eq_some {d : DecState} {n : Nat} (h : readsOf d .decS7 = some n) :
    d.work.plen ≠ 0 ∧ n = d.work.plen := by
  by_cases h0 : d.work.plen = 0
  · simp [readsOf, h0] at h
  · exact ⟨h0, by simpa [readsOf, h0, eq_comm] using h⟩

/-- What a step asks for is told from the table's length and the payload's alone. -/
theorem readsOf_congr {d d' : DecState} (hl : d'.work.ndpLen = d.work.ndpLen)
    (hp : d'.work.plen = d.work.plen) (i : Instr) : readsOf d' i = readsOf d i := by
  cases i <;> simp only [readsOf, hl, hp]

/-- A reading step that asks for `n` bytes is one read of `n` bytes, issued in the phase of its call
(R140, R141, R143, R144, R146). -/
theorem exec_of_readsOf (s : State) {n : Nat} :
    ∀ {i : Instr}, readsOf s.dec i = some n → ∃ p k, callPhase i = some p ∧
      exec i s = .next { s with dec := readThen n k (s.dec.calling i p n) }
  | .decS1, h => by cases h; exact ⟨_, _, rfl, rfl⟩
  | .decS2, h => by cases h; exact ⟨_, _, rfl, rfl⟩
  | .decS5, h => by cases h; exact ⟨_, _, rfl, rfl⟩
  | .decS4, h => by
    obtain ⟨c, hc, h0, rfl⟩ := readsOf_decS4_eq_some h
    refine ⟨.s4Ent, fun t d => d.latchEntries t, rfl, ?_⟩
    simp [exec, execDecS4, stepS4_of_entries hc h0, DecState.calling]
  | .decS7, h => by
    obtain ⟨h0, rfl⟩ := readsOf_decS7_eq_some h
    refine ⟨.s7Pay, fun b d => d.latchPayload b, rfl, ?_⟩
    simp [exec, execDecS7, stepS7_of_payload h0, DecState.calling]

/-- A reading step whose call is not answered holds the Decoder in that call, with whatever the
transport has become (R63). -/
theorem exec_of_unanswered_read {s : State} {i : Instr} {n : Nat} {rx : RxLine}
    (hr : readsOf s.dec i = some n)
    (hold : ∀ d : DecState, d.rx = s.dec.rx → rxRead n d = (.hold, { d with rx := rx })) :
    ∃ t, exec i s = .next t ∧ OnlyDec s t ∧ readsOf t.dec i = some n ∧ Held i n s.dec t.dec ∧
      t.dec.rx = rx := by
  obtain ⟨p, k, hphase, hexec⟩ := exec_of_readsOf s hr
  rw [readThen_of_hold (hold (s.dec.calling i p n) rfl)] at hexec
  have asks : readsOf { s.dec.calling i p n with rx := rx } i = readsOf s.dec i :=
    readsOf_congr (DecState.calling_ndpLen i p n s.dec) (DecState.calling_plen i p n s.dec) i
  exact ⟨_, hexec, ⟨rfl, rfl, rfl⟩, asks.trans hr,
    ⟨hphase, rfl, rfl, rfl, rfl, rfl, rfl, rfl, rfl, rfl, rfl⟩, rfl⟩

/-! ### The bounds check (R112) -/

/-- An entry inside the payload translates to its offset from the payload's start (R112). -/
theorem translate_of_inBounds {e : Entry} {thl plen : Nat} (hlo : thl ≤ e.idx.toNat)
    (hhi : e.idx.toNat - thl + e.len.toNat ≤ plen) :
    translate e thl plen = .ok (e.idx.toNat - thl) := by
  have hlo' : ¬ (e.idx.toNat : Int) - thl < 0 := by omega
  have hhi' : ¬ (e.idx.toNat : Int) - thl + e.len.toNat > plen := by omega
  have hoff : ((e.idx.toNat : Int) - thl).toNat = e.idx.toNat - thl := by omega
  simp only [translate, if_neg hlo', if_neg hhi', hoff]

end Sys2Proof.Machine
end

section
/-! The statements about the transports and the payload buffer, and the independence of the directions. -/

namespace Sys2Proof.Machine

/-- Settles O28: the reading step, or ENC.WRITE, as the one call it makes, and that call unanswered. -/
theorem unansweredCallsHold : Obligations.UnansweredCallsHold := by
  refine ⟨fun s i n hr => ⟨fun rest hw => ?_, fun hs he hn => ?_⟩, fun s frame hp hl hv => ?_⟩
  · exact exec_of_unanswered_read hr fun d hd => hd ▸ rxRead_of_wait (hd ▸ hw)
  · refine exec_of_unanswered_read hr fun d hd => ?_
    rw [← hd] at hs he hn ⊢
    exact rxRead_of_starved hs he hn
  · exact ⟨_, congrArg s.withEnc (write_of_unanswered hp hl hv), ⟨rfl, rfl, rfl⟩, rfl⟩

/-- Settles O51: a turn of either agent is a move of that agent's own state, and leaves the other's. -/
theorem directionsCommute : Obligations.DirectionsCommute := by
  intro s t u ht hu
  rw [turn_dec] at ht
  rw [turn_enc] at hu
  obtain ⟨d, hd, rfl⟩ := State.withDec_eq_next ht
  obtain ⟨e, he, rfl⟩ := State.withEnc_eq_next hu
  refine ⟨{ s with dec := d, enc := e }, ?_, ?_⟩
  · rw [turn_enc, he, State.withEnc_next]
  · rw [turn_dec, hd, State.withDec_next]

/-- Settles O23: S8 checks the buffer against `plen`; a live entry passes the bounds check and reads
beyond the buffer. -/
theorem shortPayloadBufferFaults : Obligations.ShortPayloadBufferFaults := by
  refine ⟨fun s hshort => ?_, fun s idx len _ hlo hhi hshort => ?_⟩
  · rcases stepS8_cases s.dec with ⟨_, hfault⟩ | ⟨hle, _⟩ | ⟨hle, _⟩
    · rw [exec, execDecS8, hfault, State.withDec_fault]
    · omega
    · omega
  · have htr := translate_of_inBounds (e := ⟨idx, len⟩) hlo hhi
    rcases liveEntry_cases ⟨idx, len⟩ s.dec with ⟨k, hk, _⟩ | ⟨_, _, _, hfault⟩ | ⟨off, hoff, hle, _⟩
    · cases htr.symm.trans hk
    · rw [exec, execEntryLive, hfault, State.withDec_fault]
    · cases htr.symm.trans hoff
      exact absurd hle (Nat.not_le.mpr hshort)

/-- Settles O25: a length of 8 counts no entries, and an empty payload is latched at once. -/
theorem zeroLengthReadsNotIssued : Obligations.ZeroLengthReadsNotIssued := by
  refine ⟨fun s h8 => ?_, fun s h0 => ?_⟩
  · have hcount : entryCount s.dec.work.ndpLen = .ok 0 := by rw [h8]; rfl
    rw [exec, execDecS4, stepS4_of_no_entries hcount, State.withDec_next]
  · rw [exec, execDecS7, stepS7_of_no_payload h0, State.withDec_next]
    rfl

end Sys2Proof.Machine
end

section
/-! SUPPORT. The wire structures packed and unpacked: at each position the encoder and the decoder are
inverse (R70 to R75, R78, R79, R81). -/

namespace Sys2Proof.Machine

/-! ### Unpacking what was packed -/

/-- `ParseNTH(SerNTH(h)) = h` (R102). -/
@[simp] theorem parseNTH_serNTH (h : Nth) : parseNTH (serNTH h) = h := by
  simp [parseNTH, serNTH, u16At, u32At, le16, le32]

/-- `ParseNDPF(SerNDPF(p)) = p` (R103). -/
@[simp] theorem parseNDPF_serNDPF (p : Ndpf) : parseNDPF (serNDPF p) = p := by
  simp [parseNDPF, serNDPF, u16At, u32At, le16, le32]

/-- The entry in the bytes of an entry (R73). -/
@[simp] theorem parseEntry_serEntry (e : Entry) : parseEntry (serEntry e) = e := by
  simp [parseEntry, serEntry, u16At, le16]

/-- The emitted head has the fixed bytes of R81. -/
@[simp] theorem isNtb1Head_ntb1Head (cfg : Cfg) (seq blen elen : U16) :
    isNtb1Head cfg (ntb1Head cfg seq blen elen) = true := by
  have fixed : le16Of 12#8 0#8 = 12#16 ∧ le16Of 16#8 0#8 = 16#16 ∧ le16Of 0#8 0#8 = 0#16 ∧
      le16Of 30#8 0#8 = 30#16 ∧ le32Of 0#8 0#8 0#8 0#8 = 0#32 := by decide
  simp [isNtb1Head, ntb1Head_eq_append, u16At, u32At, le16, le32, fixed]

/-- The three free fields of the emitted head stand at bytes 6, 8 and 22 (R81). -/
theorem u16At_ntb1Head (cfg : Cfg) (seq blen elen : U16) :
    u16At (ntb1Head cfg seq blen elen) 6 = seq ∧ u16At (ntb1Head cfg seq blen elen) 8 = blen ∧
    u16At (ntb1Head cfg seq blen elen) 22 = elen := by
  simp [ntb1Head_eq_append, u16At, le16, le32]

/-! ### Packing what was unpacked -/

/-- A slice as long as the bytes is the bytes. -/
theorem slice_zero_of_length {b : Bytes} {n : Nat} (hb : b.length = n) : slice b 0 n = b := by
  rw [slice, List.drop_zero, List.take_of_length_le hb.le]

/-- `SerNTH(ParseNTH(b)) = b` on the 12 bytes of a header (R102). -/
theorem serNTH_parseNTH {b : Bytes} (hb : b.length = 12) : serNTH (parseNTH b) = b :=
  calc serNTH (parseNTH b)
      = slice b 0 4 ++ slice b 4 2 ++ slice b 6 2 ++ slice b 8 2 ++ slice b 10 2 := by
        simp only [serNTH, parseNTH, hb, le16_u16At, le32_u32At, Nat.reduceAdd, Nat.reduceLeDiff]
    _ = slice b 0 12 := by
        have join (i m n : Nat) := slice_append_slice b i m n
        rw [join 0 4 2, join 0 6 2, join 0 8 2, join 0 10 2]
    _ = b := slice_zero_of_length hb

/-- `SerNDPF(ParseNDPF(b)) = b` on the 8 bytes of a pointer's fixed part (R103). -/
theorem serNDPF_parseNDPF {b : Bytes} (hb : b.length = 8) : serNDPF (parseNDPF b) = b :=
  calc serNDPF (parseNDPF b)
      = slice b 0 4 ++ slice b 4 2 ++ slice b 6 2 := by
        simp only [serNDPF, parseNDPF, hb, le16_u16At, le32_u32At, Nat.reduceAdd, Nat.reduceLeDiff]
    _ = slice b 0 8 := by
        have join (i m n : Nat) := slice_append_slice b i m n
        rw [join 0 4 2, join 0 6 2]
    _ = b := slice_zero_of_length hb

/-- The bytes of the entry that stands in four bytes are those bytes (R73). -/
theorem serEntry_parseEntry {b : Bytes} (hb : b.length = 4) : serEntry (parseEntry b) = b :=
  calc serEntry (parseEntry b)
      = slice b 0 2 ++ slice b 2 2 := by
        simp only [serEntry, parseEntry, hb, le16_u16At, Nat.reduceAdd, Nat.reduceLeDiff]
    _ = slice b 0 4 := slice_append_slice b 0 2 2
    _ = b := slice_zero_of_length hb

/-- An entry with an `Index` and no `Length` is ENTRY_ZLEN (R79). -/
theorem classify_of_index {idx : U16} (h : idx ≠ 0) : classify ⟨idx, 0⟩ = .entryZlen idx := by
  rw [classify, if_pos rfl, if_neg h]

/-- An entry with a `Length` is ENTRY_LIVE, whatever its `Index` (R79). -/
theorem classify_of_length (idx : U16) {len : U16} (h : len ≠ 0) :
    classify ⟨idx, len⟩ = .entryLive idx len := if_neg h

/-- An entry's class is encoded as the entry, at an entry's position (R73, R79). -/
theorem encode_classify (cfg : Cfg) (e : Entry) :
    encode cfg (classify e) = some (serEntry e) ∧ posOf (classify e) = some .entry := by
  obtain ⟨idx, len⟩ := e
  rcases classify_cases ⟨idx, len⟩ with ⟨rfl, rfl, hc⟩ | ⟨rfl, _, hc⟩ | ⟨_, hc⟩ <;>
    exact hc ▸ ⟨rfl, rfl⟩

/-! ### The structure in exactly its bytes, and with bytes after it (R78) -/

/-- The decoder takes the bytes of the position and leaves what comes after them. -/
theorem decode_append {cfg : Cfg} {pos : Pos} {b : Bytes} {i : Instr} (hb : b.length = pos.size)
    (h : decodeAt cfg b pos = .ok i) (rest : Bytes) : decode cfg pos (b ++ rest) = .ok (i, rest) := by
  have hlen : ¬ (b ++ rest).length < pos.size := by rw [List.length_append]; omega
  rw [decode, if_neg hlen, List.take_left' hb, List.drop_left' hb, h]

/-- What the decoder reads stands in the first bytes, as many as the position has. -/
theorem exists_append_of_decode {cfg : Cfg} {pos : Pos} {bs rest : Bytes} {i : Instr}
    (h : decode cfg pos bs = .ok (i, rest)) :
    ∃ b, b.length = pos.size ∧ decodeAt cfg b pos = .ok i ∧ bs = b ++ rest := by
  unfold decode at h
  by_cases hlen : bs.length < pos.size
  · rw [if_pos hlen] at h; cases h
  · rw [if_neg hlen] at h
    refine ⟨bs.take pos.size, List.length_take_of_le (Nat.le_of_not_lt hlen), ?_⟩
    cases hd : decodeAt cfg (bs.take pos.size) pos with
    | error e => rw [hd] at h; cases h
    | ok j => rw [hd] at h; cases h; exact ⟨rfl, (List.take_append_drop _ _).symm⟩

/-- The bytes of a well-formed structure are as many as its position has, and decode to it (R71 to R75,
R79, R81). -/
theorem decodeAt_encode {cfg : Cfg} {i : Instr} {pos : Pos} {b : Bytes} (hwf : i.wf = true)
    (hpos : posOf i = some pos) (henc : encode cfg i = some b) :
    b.length = pos.size ∧ decodeAt cfg b pos = .ok i := by
  cases i with
  | nth h => cases hpos; cases henc; exact ⟨rfl, by rw [decodeAt, parseNTH_serNTH]⟩
  | ndpf p => cases hpos; cases henc; exact ⟨rfl, by rw [decodeAt, parseNDPF_serNDPF]⟩
  | entryTerm => cases hpos; cases henc; exact ⟨rfl, rfl⟩
  | entryZlen idx =>
    have hidx : idx ≠ 0 := by simpa [Instr.wf] using hwf
    cases hpos; cases henc
    exact ⟨rfl, by rw [decodeAt, parseEntry_serEntry, classify_of_index hidx]⟩
  | entryLive idx len =>
    have hlen : len ≠ 0 := by simpa [Instr.wf] using hwf
    cases hpos; cases henc
    exact ⟨rfl, by rw [decodeAt, parseEntry_serEntry, classify_of_length idx hlen]⟩
  | pad b0 b1 => cases hpos; cases henc; exact ⟨rfl, rfl⟩
  | payload bytes => cases hpos; cases henc; exact ⟨rfl, rfl⟩
  | ntb1 seq blen elen =>
    obtain ⟨hseq, hblen, helen⟩ := u16At_ntb1Head cfg seq blen elen
    cases hpos; cases henc
    exact ⟨ntb1Head_length cfg seq blen elen, by
      rw [decodeAt, if_pos (isNtb1Head_ntb1Head cfg seq blen elen), hseq, hblen, helen]⟩
  | _ => cases hpos

/-- What the decoder reads from exactly its bytes has that position, and those bytes are its encoding
(R70 to R76). -/
theorem encode_decodeAt {cfg : Cfg} {pos : Pos} {b : Bytes} {i : Instr} (hb : b.length = pos.size)
    (h : decodeAt cfg b pos = .ok i) : encode cfg i = some b ∧ posOf i = some pos := by
  cases pos with
  | nth => cases h; exact ⟨congrArg some (serNTH_parseNTH hb), rfl⟩
  | ndpf => cases h; exact ⟨congrArg some (serNDPF_parseNDPF hb), rfl⟩
  | entry =>
    cases h
    obtain ⟨henc, hpos⟩ := encode_classify cfg (parseEntry b)
    exact ⟨henc.trans (congrArg some (serEntry_parseEntry hb)), hpos⟩
  | pad =>
    obtain ⟨b0, b1, rfl⟩ := List.length_eq_two.mp hb
    cases h; exact ⟨rfl, rfl⟩
  | payload n =>
    cases h; exact ⟨rfl, congrArg (fun n => some (Pos.payload n)) hb⟩
  | ntb1 =>
    by_cases hhead : isNtb1Head cfg b = true
    · rw [decodeAt, if_pos hhead] at h
      cases h; exact ⟨congrArg some (ntb1Head_of_isNtb1Head hb hhead), rfl⟩
    · rw [decodeAt, if_neg hhead] at h; cases h

end Sys2Proof.Machine
end

section
/-! SUPPORT. A turn of an agent that has the bytes of its next structure at hand (R78, R133), what the
Decoder does with an accepted structure (R140, R141, R146), and an answered `TxWrite` (R43). -/

namespace Sys2Proof.Machine

/-- A structure that the decoder reads from the bytes at hand in RX is what the Decoder runs. -/
theorem turn_of_decoded {s : State} {pos : Pos} {b after : Bytes} {i otherwise : Instr}
    (hf : fetchDec s = fetchRx pos otherwise s) (hb : rxPeek pos.size s.dec = some b)
    (hd : decode s.dec.cfg pos b = .ok (i, after)) : turn .dec s = exec i s := by
  simp only [turn, fetch, hf, fetchRx, hb, hd]

/-- The entry at the traversal's cursor is what the Decoder runs in S8 (R79, R114). -/
theorem turn_of_entry {s : State} {e : Entry} {after : Bytes} {i : Instr}
    (hp : s.dec.phase = .s8Extract) (he : s.dec.work.ent[s.dec.work.cursor]? = some e)
    (hd : decode s.dec.cfg .entry (serEntry e) = .ok (i, after)) : turn .dec s = exec i s := by
  simp only [turn, fetch, fetchDec, hp, fetchEntry, he, hd]

/-- The NTB in the assembly buffer is what a blocked Encoder goes on with (R81; log 16). -/
theorem turn_of_buffered {s : State} {after : Bytes} {i : Instr} (hp : s.enc.phase = .writing)
    (hd : decode s.enc.cfg .ntb1 s.enc.txbuf = .ok (i, after)) : turn .enc s = exec i s := by
  simp only [turn, fetch, fetchEnc, hp, hd]

/-- A header with the right signature is latched, and S2 is next (R140). -/
theorem latchNth_of_sig {h : Nth} {d : DecState} (hsig : h.sig = d.cfg.nthSig) :
    d.latchNth h = { d with work := { d.work with nth := h }, phase := .s2Ndpf } := if_pos hsig

/-- A pointer with the right signature is latched, and S3 is next (R141). -/
theorem latchNdpf_of_sig {p : Ndpf} {d : DecState} (hsig : p.sig = d.cfg.ndpSig) :
    d.latchNdpf p = { d with work := { d.work with ndp := p }, phase := .s3Norm } := if_pos hsig

/-- An empty payload is latched without a call (R75, R64). -/
theorem exec_payload_nil {s : State} (hp : s.dec.work.plen = 0) :
    exec (.payload []) s =
      .next { s with dec := { s.dec with phase := .s7Pay }.latchPayload [] } := by
  simp [exec, execPayload, hp]

/-- A payload of `plen` bytes is taken in one call and latched (R75, R146). -/
theorem exec_payload_of_length {s : State} {b : Bytes} (hb : b.length = s.dec.work.plen)
    (h0 : b ≠ []) :
    exec (.payload b) s = .next { s with
      dec := ({ s.dec with phase := .s7Pay }.rxAdvance b.length).latchPayload b } := by
  simp [exec, execPayload, hb, h0]

/-- An accepted `TxWrite` delivers and logs the whole buffer (R43, R173). -/
theorem txWrite_of_done {e : EncState} {rest : List TxVerdict} (h : e.tx.verdicts = .done :: rest) :
    txWrite e = { e.retire with
      phase := .idle
      txLog := e.txLog ++ [e.txbuf]
      answers := e.answers ++ [.ok]
      tx := ⟨e.tx.sent ++ e.txbuf, rest⟩ } := by
  simp only [txWrite, h]

/-- A failed `TxWrite` raises, with some first part of the buffer delivered (R43, R174, U7). -/
theorem txWrite_of_fail {e : EncState} {x : TransportErr} {rest : List TxVerdict}
    (h : e.tx.verdicts = .fail x :: rest) :
    txWrite e = { e.raise x with tx := ⟨e.tx.sent ++ e.txbuf.take (failedPrefix e), rest⟩ } := by
  simp only [txWrite, h]

/-- Whatever the Encoder's status was, after a raise it is `TransportError`, its only kind (R25). -/
theorem stickEnc_eq (f : EncFault) : stickEnc f = .transportError := by cases f <;> rfl

end Sys2Proof.Machine
end

section
/-! The statements about the encoding and about the wire structures as instructions. -/

namespace Sys2Proof.Machine

/-- Settles O1: the encoding is as long as the position asks, decodes there, and the rest is left. -/
theorem decodeUndoesEncode : Obligations.DecodeUndoesEncode := by
  intro cfg i pos b rest hwf hpos henc
  obtain ⟨hb, hd⟩ := decodeAt_encode hwf hpos henc
  exact decode_append hb hd rest

/-- Settles O2: the bytes that were read, in front of the rest, are their structure's encoding. -/
theorem encodeUndoesDecode : Obligations.EncodeUndoesDecode := by
  intro cfg pos bs i rest h
  obtain ⟨b, hb, hd, hbs⟩ := exists_append_of_decode h
  obtain ⟨henc, hpos⟩ := encode_decodeAt hb hd
  exact ⟨b, henc, hpos, hbs⟩

/-- Settles O6: each word is evaluated. -/
theorem writtenOutWordsDecode : Obligations.WrittenOutWordsDecode :=
  ⟨by decide, by decide, by decide, by decide, by decide, by decide, by decide⟩

/-- Settles O14: behind the 12 bytes the signature is the one that S1 compares with. -/
theorem headerAccepted : Obligations.HeaderAccepted := by
  intro s h hsig
  exact ⟨_, rfl, ⟨rfl, rfl, rfl⟩, latchNth_of_sig hsig⟩

/-- Settles O16: behind the 8 bytes the signature is the one that S2 compares with. -/
theorem pointerAccepted : Obligations.PointerAccepted := by
  intro s p hsig
  exact ⟨_, rfl, ⟨rfl, rfl, rfl⟩, latchNdpf_of_sig hsig⟩

/-- Settles O18: S5 compares the two bytes with nothing. -/
theorem padAcceptedWhateverValue : Obligations.PadAcceptedWhateverValue :=
  fun _ _ _ => ⟨_, rfl, ⟨rfl, rfl, rfl⟩, rfl⟩

/-- Settles O19: an empty payload is latched without a call, another one in a single call. -/
theorem payloadTakenWhole : Obligations.PayloadTakenWhole := by
  intro s b hb
  by_cases h0 : b = []
  · subst h0
    exact ⟨_, exec_payload_nil hb.symm, ⟨rfl, rfl, rfl⟩, rfl⟩
  · refine ⟨_, exec_payload_of_length hb h0, ⟨rfl, rfl, rfl⟩, ?_⟩
    rw [if_neg h0]
    rfl

/-- Settles O44: NTB1 is one `TxWrite` of the head and the frame bytes, done, failed or unanswered. -/
theorem emissionHandsOver : Obligations.EmissionHandsOver := by
  intro s seq blen elen b
  let e : EncState := { s.enc with txbuf := b, phase := .writing }
  have hexec : exec (.ntb1 seq blen elen) s = .next { s with enc := txWrite e } := rfl
  refine ⟨fun rest hv => ?_, fun x rest hv => ?_, fun hv => ?_⟩
  · rw [hexec, txWrite_of_done (e := e) hv]
    exact ⟨_, rfl, ⟨rfl, rfl, rfl⟩, rfl, rfl, rfl, rfl, rfl, rfl, rfl, rfl⟩
  · rw [hexec, txWrite_of_fail (e := e) hv]
    exact ⟨_, _, rfl, ⟨rfl, rfl, rfl⟩, rfl, rfl, rfl, rfl, rfl, stickEnc_eq _, rfl, rfl⟩
  · rw [hexec, txWrite_of_unanswered (e := e) hv]

/-- Settles O57: a step is a turn of the scheduled agent, and each agent takes the structure from where
it stands: RX, the table, or the assembly buffer. -/
theorem stepRunsDecodedInstruction : Obligations.StepRunsDecodedInstruction := by
  refine ⟨fun s hs => step_of_sched_nil hs, ?_, ?_, ?_⟩
  · intro s pos b i after rest hs hpos hb hd
    rw [step_of_sched_cons hs]
    rcases hpos with ⟨hp, rfl⟩ | ⟨hp, rfl⟩ | ⟨hp, rfl⟩ | ⟨hp, rfl, h0⟩
    · exact turn_of_decoded (otherwise := .decS1) (by simp only [fetchDec, hp]) hb hd
    · exact turn_of_decoded (otherwise := .decS2) (by simp only [fetchDec, hp]) hb hd
    · exact turn_of_decoded (otherwise := .decS5) (by simp only [fetchDec, hp]) hb hd
    · exact turn_of_decoded (otherwise := .decS7) (by simp only [fetchDec, hp, if_neg h0]) hb hd
  · intro s e i after rest hs hp he hd
    rw [step_of_sched_cons hs]
    exact turn_of_entry hp he hd
  · intro s i after rest hs hp hd
    rw [step_of_sched_cons hs]
    exact turn_of_buffered hp hd

end Sys2Proof.Machine
end

section
/-! SUPPORT. The functions of the shared traversal unit, each by its cases (R104 to R114). -/

namespace Sys2Proof.Machine

/-! ### The table (R104) -/

/-- The bytes of an entry in front of others unpack to that entry in front of theirs. -/
theorem parseEntries_serEntry_append (e : Entry) (t : Bytes) :
    parseEntries (serEntry e ++ t) = e :: parseEntries t :=
  congrArg (· :: parseEntries t) (parseEntry_serEntry e)

/-- `ParseEntries(SerEntries(es)) = es` (R104). -/
@[simp] theorem parseEntries_serEntries (es : List Entry) : parseEntries (serEntries es) = es := by
  induction es with
  | nil => rfl
  | cons e es ih => rw [serEntries, parseEntries_serEntry_append, ih]

/-- `SerEntries(ParseEntries(t)) = t` where `t` holds whole entries (R104). -/
theorem serEntries_parseEntries : ∀ {t : Bytes}, t.length % 4 = 0 → serEntries (parseEntries t) = t
  | [], _ => rfl
  | [_], h => absurd h (by simp)
  | [_, _], h => absurd h (by simp)
  | [_, _, _], h => absurd h (by simp)
  | b0 :: b1 :: b2 :: b3 :: t, h => by
    have ht : t.length % 4 = 0 := by simp only [List.length_cons] at h; omega
    have head : serEntry (parseEntry [b0, b1, b2, b3]) = [b0, b1, b2, b3] := serEntry_parseEntry rfl
    rw [parseEntries, serEntries, serEntries_parseEntries ht, head]
    rfl

/-- Element `i` of the list is entry `i` on the wire, the bytes `4i` to `4i + 3` (R104). -/
theorem parseEntries_getElem? : ∀ {t : Bytes} {i : Nat}, i < t.length / 4 →
    (parseEntries t)[i]? = some ⟨u16At t (4 * i), u16At t (4 * i + 2)⟩
  | [], _, h | [_], _, h | [_, _], _, h | [_, _, _], _, h => absurd h (by simp)
  | _ :: _ :: _ :: _ :: _, 0, _ => rfl
  | b0 :: b1 :: b2 :: b3 :: t, i + 1, h => by
    have hi : i < t.length / 4 := by simp only [List.length_cons] at h; omega
    rw [parseEntries, List.getElem?_cons_succ, parseEntries_getElem? hi]
    rfl

/-- `SerEntries` writes the entries one after the other (R104). -/
theorem serEntries_eq_flatten (es : List Entry) :
    serEntries es = (es.map fun e => le16 e.idx ++ le16 e.len).flatten := by
  induction es with
  | nil => rfl
  | cons e es ih => rw [serEntries, ih]; rfl

/-! ### Normalisation and the entry count (R105, R106) -/

/-- Pairs that do not match are passed over (R105). -/
theorem normaliseBy_append {before : List (U16 × U16)} {v : U16} (h : ∀ p ∈ before, p.1 ≠ v)
    (after : List (U16 × U16)) : normaliseBy (before ++ after) v = normaliseBy after v := by
  induction before with
  | nil => rfl
  | cons p before ih =>
    obtain ⟨hp, hbefore⟩ := List.forall_mem_cons.mp h
    rw [List.cons_append, normaliseBy, if_neg (Ne.symm hp), ih hbefore]

/-- Without a match the value stays (R105). -/
theorem normalise_of_no_match {cfg : Cfg} {v : U16} (h : ∀ p ∈ cfg.quirks, p.1 ≠ v) :
    normalise cfg v = v := by
  have hall := normaliseBy_append h []
  rwa [List.append_nil] at hall

/-- The first pair that matches gives the value (R105). -/
theorem normalise_of_first_match {cfg : Cfg} {before after : List (U16 × U16)} {v r : U16}
    (hq : cfg.quirks = before ++ (v, r) :: after) (h : ∀ p ∈ before, p.1 ≠ v) :
    normalise cfg v = r := by
  rw [normalise, hq, normaliseBy_append h, normaliseBy, if_pos rfl]

/-- EntryCount as one test: the length is that of the fixed part and of whole entries (R106). -/
theorem entryCount_eq (l : U16) :
    entryCount l = if 8 ≤ l.toNat ∧ (l.toNat - 8) % 4 = 0 then .ok ((l.toNat - 8) / 4)
      else .error .inconsistentLength := by
  unfold entryCount
  split
  · rw [if_neg (by omega)]
  · split
    · rw [if_neg (by omega)]
    · rw [if_pos (by omega)]

/-- EntryCount answers `n` exactly for the length `8 + 4n` (R106). -/
theorem entryCount_eq_ok_iff {l : U16} {n : Nat} : entryCount l = .ok n ↔ l.toNat = 8 + 4 * n := by
  rw [entryCount_eq]
  split
  · rw [Except.ok.injEq]; omega
  · simp only [reduceCtorEq, false_iff]; omega

/-- EntryCount raises for every other length (R106). -/
theorem entryCount_of_ne {l : U16} (h : ∀ n, l.toNat ≠ 8 + 4 * n) :
    entryCount l = .error .inconsistentLength := by
  rw [entryCount_eq, if_neg fun hl => h ((l.toNat - 8) / 4) (by omega)]

/-! ### The length arithmetic (R107) -/

/-- A table with a live entry has an entry of some length (R107, R111). -/
theorem hasLive_iff {es : List Entry} : hasLive es = true ↔ ∃ e ∈ es, e.len ≠ 0 := by
  simp [hasLive, isSkipped]

/-- Lengths as one test: the two conditions of R107 raise, and no other. -/
theorem lengths_eq (hlen ndplen blen : U16) (es : List Entry) :
    lengths hlen ndplen blen es =
      if blen.toNat < hlen.toNat + ndplen.toNat + 2 ∨
          (blen.toNat = hlen.toNat + ndplen.toNat + 2 ∧ hasLive es = true)
      then .error .inconsistentLength
      else .ok (hlen.toNat + ndplen.toNat + 2, blen.toNat - (hlen.toNat + ndplen.toNat + 2)) := by
  unfold lengths
  dsimp only
  split
  · rw [if_pos (.inl ‹_›)]
  · have hexact : blen.toNat - (hlen.toNat + ndplen.toNat + 2) = 0 ↔
        blen.toNat = hlen.toNat + ndplen.toNat + 2 := by omega
    simp only [hexact, ‹¬ _›, false_or]

/-- Where the structures fit, with room for a live entry if there is one, `thl` is their sum and `plen`
what is left of `BlockLength` (R107). -/
theorem lengths_of_fits {hlen ndplen blen : U16} {es : List Entry}
    (hfit : hlen.toNat + ndplen.toNat + 2 ≤ blen.toNat)
    (hroom : blen.toNat = hlen.toNat + ndplen.toNat + 2 → ∀ e ∈ es, e.len = 0) :
    lengths hlen ndplen blen es =
      .ok (hlen.toNat + ndplen.toNat + 2, blen.toNat - (hlen.toNat + ndplen.toNat + 2)) := by
  rw [lengths_eq, if_neg]
  rintro (hlt | ⟨heq, hlive⟩)
  · omega
  · obtain ⟨e, he, hlen⟩ := hasLive_iff.mp hlive
    exact hlen (hroom heq e he)

/-- What Lengths answers adds up to `BlockLength` (R107, R110). -/
theorem lengths_eq_ok {hlen ndplen blen : U16} {es : List Entry} {thl plen : Nat}
    (h : lengths hlen ndplen blen es = .ok (thl, plen)) :
    thl = hlen.toNat + ndplen.toNat + 2 ∧ blen.toNat = thl + plen := by
  rw [lengths_eq] at h
  split at h
  · cases h
  · cases h; omega

/-! ### Translation and extraction (R112, R114) -/

/-- The datagram of an entry lies in a payload of `plen` bytes that `thl` bytes precede (R112). -/
abbrev Entry.InBounds (thl plen : Nat) (e : Entry) : Prop :=
  thl ≤ e.idx.toNat ∧ e.idx.toNat - thl + e.len.toNat ≤ plen

/-- An entry outside the payload raises (R112). -/
theorem translate_of_outOfBounds {e : Entry} {thl plen : Nat} (h : ¬ Entry.InBounds thl plen e) :
    translate e thl plen = .error .corruptFrame := by
  unfold translate
  dsimp only
  split
  · rfl
  · rw [if_pos (by omega)]

/-- An entry that starts before the payload, or ends behind it, is outside. -/
theorem not_inBounds_iff {e : Entry} {thl plen : Nat} :
    ¬ Entry.InBounds thl plen e ↔ e.idx.toNat < thl ∨ plen < e.idx.toNat - thl + e.len.toNat := by
  omega

/-- A live entry is not skipped (R111). -/
theorem isSkipped_of_live {e : Entry} (h : e.len ≠ 0) : isSkipped e = false := beq_false_of_ne h

/-- A skipped entry is passed over (R111). -/
theorem extract_cons_of_skipped {e : Entry} (h : e.len = 0) (es : List Entry) (thl plen : Nat)
    (pay : Bytes) : extract (e :: es) thl plen pay = extract es thl plen pay := by
  have hs : isSkipped e = true := beq_iff_eq.mpr h
  rw [extract, if_pos hs]

/-- A live entry in bounds puts its slice in front of those of the entries after it (R114). -/
theorem extract_cons_of_inBounds {e : Entry} {thl plen : Nat} (h : e.len ≠ 0)
    (hb : Entry.InBounds thl plen e) (es : List Entry) (pay : Bytes) :
    extract (e :: es) thl plen pay =
      (extract es thl plen pay).map (slice pay (e.idx.toNat - thl) e.len.toNat :: ·) := by
  rw [extract, isSkipped_of_live h, translate_of_inBounds hb.1 hb.2]
  cases extract es thl plen pay <;> rfl

/-- A live entry out of bounds raises, whatever comes after it (R114). -/
theorem extract_cons_of_outOfBounds {e : Entry} {thl plen : Nat} (h : e.len ≠ 0)
    (hb : ¬ Entry.InBounds thl plen e) (es : List Entry) (pay : Bytes) :
    extract (e :: es) thl plen pay = .error .corruptFrame := by
  rw [extract, isSkipped_of_live h, translate_of_outOfBounds hb]
  rfl

/-- The slices of the live entries, in table order (R114). -/
def liveSlices (es : List Entry) (thl : Nat) (pay : Bytes) : List Bytes :=
  (es.filter fun e => e.len != 0).map fun e => slice pay (e.idx.toNat - thl) e.len.toNat

/-- With every live entry in bounds Extract gives the live entries' slices (R114). -/
theorem extract_of_inBounds {thl plen : Nat} (pay : Bytes) {es : List Entry}
    (h : ∀ e ∈ es, e.len ≠ 0 → Entry.InBounds thl plen e) :
    extract es thl plen pay = .ok (liveSlices es thl pay) := by
  induction es with
  | nil => rfl
  | cons e es ih =>
    obtain ⟨he, hes⟩ := List.forall_mem_cons.mp h
    by_cases hl : e.len = 0
    · rw [extract_cons_of_skipped hl, ih hes, liveSlices, liveSlices,
        List.filter_cons_of_neg (by simp [hl])]
    · rw [extract_cons_of_inBounds hl (he hl), ih hes, liveSlices, liveSlices,
        List.filter_cons_of_pos (by simpa using hl), List.map_cons]
      rfl

/-- With a live entry out of bounds Extract gives no slices (R114). -/
theorem extract_of_outOfBounds {thl plen : Nat} (pay : Bytes) {es : List Entry}
    (h : ∃ e ∈ es, e.len ≠ 0 ∧ ¬ Entry.InBounds thl plen e) :
    extract es thl plen pay = .error .corruptFrame := by
  induction es with
  | nil => simp at h
  | cons e es ih =>
    obtain ⟨x, hx, hlive, hout⟩ := h
    by_cases hbad : e.len ≠ 0 ∧ ¬ Entry.InBounds thl plen e
    · exact extract_cons_of_outOfBounds hbad.1 hbad.2 es pay
    · have hxs : x ∈ es := (List.mem_cons.mp hx).resolve_left fun he => hbad (he ▸ ⟨hlive, hout⟩)
      have herr := ih ⟨x, hxs, hlive, hout⟩
      by_cases hl : e.len = 0
      · rw [extract_cons_of_skipped hl, herr]
      · have hb : Entry.InBounds thl plen e := not_not.mp fun hb => hbad ⟨hl, hb⟩
        rw [extract_cons_of_inBounds hl hb, herr]
        rfl

/-! ### An NTB in its five parts (R70), and the one the Encoder builds (R81, R115) -/

/-- What the Encoder builds is its five parts, in order (R81, R82, R115). -/
theorem ntb1_eq_serNtb (cfg : Cfg) (s : U16) (frame : Bytes) :
    ntb1 cfg s frame = serNtb (ntb1Form cfg s frame) := rfl

/-- Size law (R118). -/
@[simp] theorem ntb1_length (cfg : Cfg) (s : U16) (frame : Bytes) :
    (ntb1 cfg s frame).length = frame.length + 30 := by
  rw [ntb1, List.length_append, ntb1Head_length, Nat.add_comm]

/-- Behind the 30 bytes of its head the emitted NTB is the frame (R81). -/
theorem drop_ntb1 (cfg : Cfg) (s : U16) (frame : Bytes) : (ntb1 cfg s frame).drop 30 = frame :=
  List.drop_left' (ntb1Head_length cfg s _ _)

/-- The structures read where they stand in the emitted NTB are those it was made of (R81, R115). -/
theorem parse_ntb1 (cfg : Cfg) (s : U16) (frame : Bytes) :
    parseNTH (slice (ntb1 cfg s frame) 0 12) = (ntb1Form cfg s frame).nth ∧
    parseNDPF (slice (ntb1 cfg s frame) 12 8) = (ntb1Form cfg s frame).ndpf ∧
    parseEntries (slice (ntb1 cfg s frame) 20 8) = (ntb1Form cfg s frame).entries ∧
    slice (ntb1 cfg s frame) 28 2 = [0, 0] := by
  have hnth : slice (ntb1 cfg s frame) 0 12 = serNTH (ntb1Form cfg s frame).nth := rfl
  have hndpf : slice (ntb1 cfg s frame) 12 8 = serNDPF (ntb1Form cfg s frame).ndpf := rfl
  have htable : slice (ntb1 cfg s frame) 20 8 = serEntries (ntb1Form cfg s frame).entries := rfl
  exact ⟨hnth ▸ parseNTH_serNTH _, hndpf ▸ parseNDPF_serNDPF _,
    htable ▸ parseEntries_serEntries _, rfl⟩

/-- The two length fields of the emitted NTB do not wrap (R115, U1). -/
theorem ntb1_lengths_toNat {n : Nat} (h : n ≤ 65505) :
    (BitVec.ofNat 16 (n + 30)).toNat = n + 30 ∧ (BitVec.ofNat 16 n).toNat = n := by
  simp only [BitVec.toNat_ofNat]
  omega

/-! ### The round trip of the emitted NTB (R117) -/

/-- A frame behind the 30 bytes of the structures lies in its payload, whole (R81, R112). -/
theorem inBounds_ntb1Form {frame : Bytes} (h : frame.length ≤ 65505) :
    Entry.InBounds 30 frame.length ⟨30, BitVec.ofNat 16 frame.length⟩ := by
  have helen := (ntb1_lengths_toNat h).2
  have hend : 0 + (BitVec.ofNat 16 frame.length).toNat ≤ frame.length := by omega
  exact ⟨le_rfl, hend⟩

/-- The entry of the emitted NTB has no length exactly where the frame has none (R81). -/
theorem ofNat_length_eq_zero_iff {frame : Bytes} (h : frame.length ≤ 65505) :
    BitVec.ofNat 16 frame.length = 0 ↔ frame = [] := by
  rw [← BitVec.toNat_inj, (ntb1_lengths_toNat h).2]
  exact List.length_eq_zero_iff

/-- The length arithmetic on the emitted NTB gives its 30 bytes of structures and the frame's length
(R107, R117). -/
theorem lengths_ntb1Form (cfg : Cfg) (s : U16) {frame : Bytes} (h : frame.length ≤ 65505) :
    lengths 12 16 (ntb1Form cfg s frame).nth.blen (ntb1Form cfg s frame).entries =
      .ok (30, frame.length) := by
  obtain ⟨hblen, -⟩ := ntb1_lengths_toNat h
  have hthl : (12 : U16).toNat + (16 : U16).toNat + 2 = 30 := rfl
  rw [ntb1Form, lengths_of_fits, hthl, hblen, Nat.add_sub_cancel]
  · rw [hthl, hblen]; omega
  · intro hexact
    rw [hthl, hblen] at hexact
    have hnil : frame = [] := List.length_eq_zero_iff.mp (by omega)
    simp [hnil]

/-- The extraction on the emitted NTB gives the frame, or nothing where the frame is empty (R114,
R117). -/
theorem extract_ntb1Form (cfg : Cfg) (s : U16) {frame : Bytes} (h : frame.length ≤ 65505) :
    extract (ntb1Form cfg s frame).entries 30 frame.length frame =
      .ok (if frame.length = 0 then [] else [frame]) := by
  by_cases hnil : frame = []
  · subst hnil; rfl
  · have hlen : (⟨30, BitVec.ofNat 16 frame.length⟩ : Entry).len ≠ 0 :=
      mt (ofNat_length_eq_zero_iff h).mp hnil
    have hne : frame.length ≠ 0 := mt List.length_eq_zero_iff.mp hnil
    rw [ntb1Form, extract_cons_of_inBounds hlen (inBounds_ntb1Form h), extract_cons_of_skipped rfl,
      if_neg hne]
    simp [extract, Except.map, slice, (ntb1_lengths_toNat h).2]

/-- The table of the emitted NTB ends in the terminator, and its live entry is in bounds (R116). -/
theorem table_ntb1Form (cfg : Cfg) (s : U16) {frame : Bytes} (h : frame.length ≤ 65505) :
    terminated (ntb1Form cfg s frame).entries = true ∧
    allInBounds (ntb1Form cfg s frame).entries 30 frame.length = true := by
  refine ⟨by simp [ntb1Form, terminated, hasLive], ?_⟩
  obtain ⟨hlo, hhi⟩ := inBounds_ntb1Form h
  have hlive : (translate ⟨30, BitVec.ofNat 16 frame.length⟩ 30 frame.length).isOk = true := by
    rw [translate_of_inBounds hlo hhi]; rfl
  simp only [ntb1Form, allInBounds, List.all_cons, List.all_nil, hlive, Bool.or_true]
  rfl

/-- What the Encoder builds meets the clauses of R116. -/
theorem wellFormedNTB_ntb1 {cfg : Cfg} (s : U16) {frame : Bytes} (h : frame.length ≤ 65505)
    (hquirk : normalise cfg 16 = 16) : wellFormedNTB cfg (ntb1 cfg s frame) = true := by
  obtain ⟨hnth, hndpf, hes, hpad⟩ := parse_ntb1 cfg s frame
  obtain ⟨hterm, hin⟩ := table_ntb1Form cfg s h
  have hn : (normalise cfg (ntb1Form cfg s frame).ndpf.lenRaw).toNat = 16 := congrArg _ hquirk
  have hblen : (ntb1Form cfg s frame).nth.blen.toNat = frame.length + 30 := (ntb1_lengths_toNat h).1
  have hroom : (frame.length == 0 && hasLive (ntb1Form cfg s frame).entries) = false := by
    cases frame <;> rfl
  simp only [wellFormedNTB, hnth, hndpf, hn, Nat.reduceSub, Nat.reduceAdd, hes, hpad, ntb1_length,
    Nat.add_sub_cancel, hterm, hin, hblen, hroom]
  simp [ntb1Form]

/-! ### The functions that can raise, as instructions (R106, R107, R112, R114) -/

/-- EntryCount returns the count, or the kind it raises (R106). -/
theorem exec_entryCount (l : U16) (s : State) :
    exec (.entryCount l) s = .next { s with
      unit := if 8 ≤ l.toNat ∧ (l.toNat - 8) % 4 = 0 then .nat ((l.toNat - 8) / 4)
        else .raised .inconsistentLength } := by
  rw [exec, execEntryCount, entryCount_eq]
  by_cases h : 8 ≤ l.toNat ∧ (l.toNat - 8) % 4 = 0
  · rw [if_pos h, if_pos h]; rfl
  · rw [if_neg h, if_neg h]; rfl

/-- Lengths returns both lengths, or the kind it raises (R107). -/
theorem exec_lengths (hlen ndplen blen : U16) (es : List Entry) (s : State) :
    exec (.lengths hlen ndplen blen es) s = .next { s with
      unit := if blen.toNat < hlen.toNat + ndplen.toNat + 2 ∨
          (blen.toNat = hlen.toNat + ndplen.toNat + 2 ∧ ∃ e ∈ es, e.len ≠ 0)
        then .raised .inconsistentLength
        else .lengths (hlen.toNat + ndplen.toNat + 2)
          (blen.toNat - (hlen.toNat + ndplen.toNat + 2)) } := by
  rw [exec, execLengths, lengths_eq]
  simp only [hasLive_iff]
  by_cases h : blen.toNat < hlen.toNat + ndplen.toNat + 2 ∨
      (blen.toNat = hlen.toNat + ndplen.toNat + 2 ∧ ∃ e ∈ es, e.len ≠ 0)
  · rw [if_pos h, if_pos h]; rfl
  · rw [if_neg h, if_neg h]; rfl

/-- Translate returns the offset, or the kind it raises (R112). -/
theorem exec_translate (e : Entry) (thl plen : Nat) (s : State) :
    exec (.translate e thl plen) s = .next { s with
      unit := if Entry.InBounds thl plen e then .nat (e.idx.toNat - thl)
        else .raised .corruptFrame } := by
  rw [exec, execTranslate]
  by_cases h : Entry.InBounds thl plen e
  · rw [translate_of_inBounds h.1 h.2, if_pos h]; rfl
  · rw [translate_of_outOfBounds h, if_neg h]; rfl

/-- Extract returns the live entries' slices, or the kind it raises (R114). -/
theorem exec_extract (es : List Entry) (thl : Nat) {plen : Nat} {pay : Bytes}
    (hpay : pay.length = plen) (s : State) :
    exec (.extract es thl plen pay) s = .next { s with
      unit := if ∀ e ∈ es, e.len ≠ 0 → Entry.InBounds thl plen e
        then .slices (liveSlices es thl pay) else .raised .corruptFrame } := by
  rw [exec, execExtract, if_neg (not_not.mpr hpay)]
  by_cases h : ∀ e ∈ es, e.len ≠ 0 → Entry.InBounds thl plen e
  · rw [extract_of_inBounds pay h, if_pos h]; rfl
  · have hout : ∃ e ∈ es, e.len ≠ 0 ∧ ¬ Entry.InBounds thl plen e := by simpa using h
    rw [extract_of_outOfBounds pay hout, if_neg h]; rfl

end Sys2Proof.Machine
end

section
/-! The statements about the functions of the shared traversal unit. -/

namespace Sys2Proof.Machine

/-- Settles O13: the four structures read from the emitted NTB are those it was built of, so that the
table has one live entry at most, and that one is the whole payload. -/
theorem ntbRoundTrip : Obligations.NtbRoundTrip := by
  intro cfg s frame hlen hquirk
  obtain ⟨hnth, hndpf, hes, -⟩ := parse_ntb1 cfg s frame
  refine ⟨wellFormedNTB_ntb1 s hlen hquirk, 30, frame.length, ?_, rfl, rfl, ?_⟩
  · rw [hnth, hndpf, hes]
    exact hquirk.symm ▸ lengths_ntb1Form cfg s hlen
  · rw [hes, drop_ntb1]
    exact extract_ntb1Form cfg s hlen

/-- Settles O5: by induction on the table, four bytes an entry. -/
theorem entriesPackInOrder : Obligations.EntriesPackInOrder :=
  ⟨fun t ht => ⟨parseEntries_length t, fun _ hi => parseEntries_getElem? hi, serEntries_parseEntries ht⟩,
    fun es => ⟨serEntries_eq_flatten es, parseEntries_serEntries es⟩, rfl, by decide⟩

/-- Settles O7: the pairs before the match are passed over, and the match ends the search. -/
theorem quirkFirstMatchOnce : Obligations.QuirkFirstMatchOnce := by
  refine ⟨fun cfg before after v r hq hbefore => normalise_of_first_match hq hbefore,
    fun cfg v hnone => normalise_of_no_match hnone, by decide, fun v hv => ?_⟩
  exact normalise_of_no_match (by simpa [Cfg.standard] using hv.symm)

/-- Settles O9: the two tests of R107, and the ranges from the widths of the three fields. -/
theorem lengthsExact : Obligations.LengthsExact := by
  intro hlen ndplen blen es
  refine ⟨fun hshort => ?_, fun hexact hlive => ?_, fun hfit hroom => ?_, fun thl plen h8 hok => ?_⟩
  · rw [lengths_eq, if_pos (.inl hshort)]
  · rw [lengths_eq, if_pos (.inr ⟨hexact, hasLive_iff.mpr hlive⟩)]
  · exact ⟨_, _, lengths_of_fits hfit hroom, rfl, by omega⟩
  · obtain ⟨hthl, hsum⟩ := lengths_eq_ok hok
    exact ⟨by omega, by omega, by omega, fun e off _ htr => translate_ok_le htr⟩

/-- Settles O11: by induction on the table, a live entry in bounds or out of bounds at its head. -/
theorem extractExact : Obligations.ExtractExact := by
  intro es thl plen payload hlen
  refine ⟨fun hin => extract_of_inBounds payload hin, fun ⟨e, he, hl, hout⟩ => ?_,
    fun l hok => extract_slices_ne_nil hlen hok⟩
  exact extract_of_outOfBounds payload ⟨e, he, hl, not_inBounds_iff.mpr hout⟩

/-- Settles O46: each function's arm returns what the function answers, by the function's cases. -/
theorem functionsReturnResults : Obligations.FunctionsReturnResults := by
  intro s
  exact ⟨fun b hb => if_pos hb, fun h => rfl, fun b hb => if_pos hb, fun p => rfl,
    fun t ht => ⟨parseEntries t, if_pos ht, parseEntries_length t, serEntries_parseEntries ht⟩,
    fun es => serEntries_eq_flatten es ▸ rfl, fun cfg v => rfl, fun l => exec_entryCount l s,
    fun hlen ndplen blen es => exec_lengths hlen ndplen blen es s, fun e => rfl,
    fun e thl plen _ => exec_translate e thl plen s,
    fun es thl plen pay hpay => exec_extract es thl hpay s,
    fun cfg n frame hframe => if_neg (Nat.not_lt.mpr hframe)⟩

/-- Settles O3: the five fields are packed one after the other, and `ParseNTH` reads them back. -/
theorem headerPackingInverse : Obligations.HeaderPackingInverse :=
  ⟨fun h => ⟨rfl, serNTH_length h, parseNTH_serNTH h⟩, fun _ hb => serNTH_parseNTH hb, by decide⟩

/-- Settles O4: the three fields are packed one after the other, and `ParseNDPF` reads them back. -/
theorem pointerPackingInverse : Obligations.PointerPackingInverse :=
  ⟨fun _ hb => ⟨rfl, serNDPF_parseNDPF hb⟩,
    fun p => ⟨rfl, serNDPF_length p, parseNDPF_serNDPF p⟩, by decide⟩

/-- Settles O8: a 16-bit length of `8 + 4n` leaves `n` at most 16381. -/
theorem entryCountExact : Obligations.EntryCountExact := by
  refine fun l => ⟨fun n => entryCount_eq_ok_iff, entryCount_of_ne, fun n hn => ?_⟩
  have hl := entryCount_eq_ok_iff.mp hn
  omega

/-- Settles O10: the bounds check, on either side of it. -/
theorem translateExact : Obligations.TranslateExact := by
  intro e thl plen _
  exact ⟨translate_of_inBounds,
    fun hbefore => translate_of_outOfBounds (not_inBounds_iff.mpr (.inl hbefore)),
    fun _ hbeyond => translate_of_outOfBounds (not_inBounds_iff.mpr (.inr hbeyond))⟩

/-- Settles O12: the bytes of the head stand one by one, and the frame behind them. -/
theorem emittedFormLayout : Obligations.EmittedFormLayout := by
  intro cfg s frame _
  exact ⟨ntb1_length cfg s frame, rfl, (rfl : _ = le16 12), rfl, rfl, (rfl : _ = le16 12), rfl,
    (rfl : _ = le16 16), (rfl : _ = le16 0), (rfl : _ = le16 30), rfl, (rfl : _ = le32 0),
    (rfl : _ = le16 0), drop_ntb1 cfg s frame, ntb1_eq_serNtb cfg s frame⟩

end Sys2Proof.Machine
end

section
/-! SUPPORT. The entries as instructions (R79, R111, R112), and the traversal entry by entry (R114, R147). -/

namespace Sys2Proof.Machine

/-! ### One entry -/

/-- A live entry in bounds stages its slice, and the traversal goes on (R112, R147). -/
theorem liveEntry_of_inBounds {e : Entry} {d : DecState}
    (hpay : d.work.payload.length = d.work.plen) (hb : Entry.InBounds d.work.thl d.work.plen e) :
    d.liveEntry e = .next { d with
      phase := .s8Extract
      work := { d.work with
        stage := d.work.stage ++ slice d.work.payload (e.idx.toNat - d.work.thl) e.len.toNat
        slices := d.work.slices ++ [slice d.work.payload (e.idx.toNat - d.work.thl) e.len.toNat]
        cursor := d.work.cursor + 1 } } := by
  obtain ⟨hlo, hhi⟩ := hb
  have htr := translate_of_inBounds hlo hhi
  rcases liveEntry_cases e d with ⟨k, hk, _⟩ | ⟨off, hoff, hshort, _⟩ | ⟨off, hoff, _, hnext⟩
  · cases htr.symm.trans hk
  · cases htr.symm.trans hoff; omega
  · cases htr.symm.trans hoff; exact hnext

/-- A live entry out of bounds raises (R112, R196). -/
theorem liveEntry_of_outOfBounds {e : Entry} {d : DecState}
    (hb : ¬ Entry.InBounds d.work.thl d.work.plen e) :
    d.liveEntry e = .next (DecState.raise .corruptFrame { d with phase := .s8Extract }) := by
  have htr := translate_of_outOfBounds hb
  rcases liveEntry_cases e d with ⟨k, hk, hraise⟩ | ⟨off, hoff, _⟩ | ⟨off, hoff, _⟩
  · cases htr.symm.trans hk; exact hraise
  · cases htr.symm.trans hoff
  · cases htr.symm.trans hoff

/-- The slice of an entry in bounds is as long as the entry says (R112). -/
theorem slice_length_of_inBounds {e : Entry} {thl : Nat} {pay : Bytes}
    (hb : Entry.InBounds thl pay.length e) :
    (slice pay (e.idx.toNat - thl) e.len.toNat).length = e.len.toNat := by
  obtain ⟨_, hend⟩ := hb
  rw [slice, List.length_take, List.length_drop]
  omega

/-- A recorded status stays, and without one the kind is recorded (R13, R200). -/
theorem stickDec_eq (f : DecFault) (k : ErrorKind) :
    stickDec f k = if f = .none then statusOf k else f := by cases f <;> rfl

/-- A raise field by field (R200): nothing of it is told from the working registers or the phase. -/
theorem raise_eq (k : ErrorKind) (d : DecState) :
    d.raise k = { d with
      work := { Config.deadWork d.draws with stage := [], slices := [] }
      draws := d.draws + 1
      answers := d.answers ++ (if d.pend = none then [] else [.err k])
      pend := none
      fault := stickDec d.fault k
      phase := .idle } := by
  rw [DecState.raise, DecState.answer, DecState.retire_pend]
  cases h : d.pend <;> simp [DecState.retire, h]

/-- A raise forgets the working registers and the phase it was met in (R200, U2). -/
theorem raise_with (k : ErrorKind) (w : DecWork) (p : Phase) (d : DecState) :
    DecState.raise k { d with work := w, phase := p } = d.raise k := by rw [raise_eq, raise_eq]

/-- What a raise comes to where no byte was consumed before it, whatever phase it was met in (R200). -/
theorem raised_raise (k : ErrorKind) (p : Phase) (d : DecState) :
    Raised k 0 d (DecState.raise k { d with phase := p }) where
  queue := DecState.raise_q k _
  log := DecState.raise_framesLog k _
  cursor := DecState.raise_rxCount k _
  stream := by rw [DecState.raise_rx, List.drop_zero]
  ended := by rw [DecState.raise_rx]
  status := (DecState.raise_fault k _).trans (stickDec_eq d.fault k)
  phase := DecState.raise_phase k _
  stage := DecState.raise_stage k _
  outstanding := DecState.raise_pend k _
  result := DecState.raise_answers k _
  cfg := DecState.raise_cfg k _
  reqs := DecState.raise_reqs k _

/-! ### The rest of the traversal -/

/-- The Decoder once it has traversed the entries `es` that are left: everything staged, or the raise
(R114, R147). `run_traversal` and `stepS8_of_start` tie it to the machine. -/
def DecState.traversed (es : List Entry) (d : DecState) : DecState :=
  match extract es d.work.thl d.work.plen d.work.payload with
  | .ok l =>
    { d with work := { d.work with
      stage := d.work.stage ++ l.flatten
      slices := d.work.slices ++ l
      cursor := d.work.cursor + es.length } }
  | .error k => d.raise k

/-- From the start of S8, step S8 is the traversal of the whole table (R147). -/
theorem stepS8_of_start {d : DecState} (hp : d.phase = .s8Extract) (hc : d.work.cursor = 0)
    (hst : d.work.stage = []) (hsl : d.work.slices = [])
    (hpay : d.work.payload.length = d.work.plen) :
    d.stepS8 = .next (d.traversed d.work.ent) := by
  have hd : { d with phase := .s8Extract } = d := by rw [← hp]
  rcases stepS8_cases d with ⟨hshort, _⟩ | ⟨_, k, hk, h⟩ | ⟨_, l, hl, h⟩
  · omega
  · rw [h, DecState.traversed, hk, hd]
  · rw [h, DecState.traversed, hl, hst, hsl, hc, ← hp]
    simp

/-- Nothing is left to traverse. -/
theorem traversed_nil (d : DecState) : d.traversed [] = d := by
  simp [DecState.traversed, extract]

/-- Past a skipped entry the traversal is that of the entries after it (R111). -/
theorem traversed_cons_of_skipped {e : Entry} {d : DecState} (hp : d.phase = .s8Extract)
    (h : e.len = 0) (es : List Entry) : d.traversed (e :: es) = d.skipEntry.traversed es := by
  rw [DecState.traversed, DecState.traversed, extract_cons_of_skipped h, DecState.skipEntry_work]
  cases extract es d.work.thl d.work.plen d.work.payload with
  | error k => exact (raise_with k _ _ d).symm
  | ok l => simp [DecState.skipEntry, DecState.nextEntry, hp, Nat.add_right_comm, ← Nat.add_assoc]

/-- Past a live entry in bounds the traversal is that of the entries after it, with its slice staged
(R112, R114). -/
theorem traversed_cons_of_inBounds {e : Entry} {d d' : DecState} (hp : d.phase = .s8Extract)
    (hpay : d.work.payload.length = d.work.plen) (h : e.len ≠ 0)
    (hb : Entry.InBounds d.work.thl d.work.plen e) (hd : d.liveEntry e = .next d')
    (es : List Entry) : d.traversed (e :: es) = d'.traversed es := by
  cases (liveEntry_of_inBounds hpay hb).symm.trans hd
  rw [DecState.traversed, DecState.traversed, extract_cons_of_inBounds h hb]
  cases extract es d.work.thl d.work.plen d.work.payload with
  | error k => exact (raise_with k _ _ d).symm
  | ok l => simp [Except.map, hp, Nat.add_right_comm, ← Nat.add_assoc]

/-- A live entry out of bounds ends the traversal (R114, R196). -/
theorem traversed_cons_of_outOfBounds {e : Entry} {d : DecState} (h : e.len ≠ 0)
    (hb : ¬ Entry.InBounds d.work.thl d.work.plen e) (es : List Entry) :
    d.traversed (e :: es) = d.raise .corruptFrame := by
  rw [DecState.traversed, extract_cons_of_outOfBounds h hb]

/-- One move passes the entry at the cursor, and the rest of the traversal is ahead; or it ends the
traversal (R114, R133; log 9). -/
theorem move_at_entry {e : Entry} {es : List Entry} {d : DecState} (hp : d.phase = .s8Extract)
    (hpay : d.work.payload.length = d.work.plen) (htable : d.work.ent.drop d.work.cursor = e :: es) :
    (∃ d', d.move = .next d' ∧ d'.phase = .s8Extract ∧
      d'.work.payload.length = d'.work.plen ∧ d'.work.ent.drop d'.work.cursor = es ∧
      d.traversed (e :: es) = d'.traversed es) ∨
    d.move = .next (d.traversed (e :: es)) := by
  have he : d.work.ent[d.work.cursor]? = some e := by
    rw [← List.head?_drop, htable, List.head?_cons]
  have hes : d.work.ent.drop (d.work.cursor + 1) = es := by
    rw [← List.tail_drop, htable, List.tail_cons]
  have hmove : d.move = if e.len = 0 then .next d.skipEntry else d.liveEntry e := by
    simp only [DecState.move, hp, he]
  by_cases h0 : e.len = 0
  · rw [if_pos h0] at hmove
    exact .inl ⟨_, hmove, rfl, hpay, hes, traversed_cons_of_skipped hp h0 es⟩
  · rw [if_neg h0] at hmove
    by_cases hb : Entry.InBounds d.work.thl d.work.plen e
    · have hlive := liveEntry_of_inBounds hpay hb
      exact .inl ⟨_, hmove.trans hlive, rfl, hpay, hes,
        traversed_cons_of_inBounds hp hpay h0 hb hlive es⟩
    · rw [liveEntry_of_outOfBounds hb] at hmove
      exact .inr (hmove.trans (by rw [traversed_cons_of_outOfBounds h0 hb, ← hp]))

/-- A run whose first turn is the Decoder's goes on from that move. -/
theorem run_dec_of_move {s : State} {d' : DecState} (h : s.dec.move = .next d') (m : Nat) :
    Host.Core.run core (m + 1) { s with sched := List.replicate (m + 1) .dec } =
      Host.Core.run core m { s with dec := d', sched := List.replicate m .dec } := by
  apply run_succ_of_next
  rw [step_of_sched_cons (rest := List.replicate m .dec) rfl, turn_dec]
  exact congrArg (State.withDec _) h

/-- At most as many moves as entries are left come to the end of the traversal (R114, R147; log 9). -/
theorem run_traversal : ∀ (es : List Entry) (s : State), s.dec.phase = .s8Extract →
    s.dec.work.payload.length = s.dec.work.plen → s.dec.work.ent.drop s.dec.work.cursor = es →
    ∃ m ≤ es.length, Host.Core.run core m { s with sched := List.replicate m .dec } =
      .next { s with dec := s.dec.traversed es, sched := [] }
  | [], s, _, _, _ => ⟨0, le_rfl, by rw [traversed_nil]; rfl⟩
  | e :: es, s, hp, hpay, htable => by
    rcases move_at_entry hp hpay htable with ⟨d', hmove, hp', hpay', htable', hrest⟩ | hmove
    · obtain ⟨m, hm, hrun⟩ := run_traversal es { s with dec := d' } hp' hpay' htable'
      exact ⟨m + 1, Nat.succ_le_succ hm, by rw [run_dec_of_move hmove, hrest]; exact hrun⟩
    · exact ⟨1, by simp, run_dec_of_move hmove 0⟩

end Sys2Proof.Machine
end

section
/-! The statements about the traversal of the table. -/

namespace Sys2Proof.Machine

/-- Settles O20: the class decides, and `Index` is not looked at. -/
theorem skippedEntriesContributeNothing : Obligations.SkippedEntriesContributeNothing :=
  fun _ _ => ⟨_, rfl, rfl, ⟨rfl, rfl, rfl⟩, rfl⟩

/-- Settles O21: the bounds check passes, and the payload buffer holds the slice. -/
theorem liveEntryStaged : Obligations.LiveEntryStaged := by
  intro s idx len _ hpay hlo hhi
  have hb : Entry.InBounds s.dec.work.thl s.dec.work.plen ⟨idx, len⟩ := ⟨hlo, hhi⟩
  exact ⟨_, _, congrArg s.withDec (liveEntry_of_inBounds hpay hb), ⟨rfl, rfl, rfl⟩, rfl,
    slice_length_of_inBounds (e := ⟨idx, len⟩) (hpay ▸ hb), rfl⟩

/-- Settles O22: the bounds check raises before anything is read or staged. -/
theorem liveEntryOutOfBoundsRaises : Obligations.LiveEntryOutOfBoundsRaises := by
  intro s idx len _ hout
  have hb : ¬ Entry.InBounds s.dec.work.thl s.dec.work.plen ⟨idx, len⟩ := not_inBounds_iff.mpr hout
  exact ⟨_, congrArg s.withDec (liveEntry_of_outOfBounds hb), ⟨rfl, rfl, rfl⟩,
    raised_raise .corruptFrame .s8Extract s.dec⟩

/-- Settles O35: the run of the machine and step S8 are both the traversal of the whole table. -/
theorem entryByEntryIsTraversal : Obligations.EntryByEntryIsTraversal := by
  intro s hp hc hst hsl hpay
  obtain ⟨m, hm, hrun⟩ := run_traversal s.dec.work.ent s hp hpay (by rw [hc, List.drop_zero])
  exact ⟨m, _, hm, congrArg s.withDec (stepS8_of_start hp hc hst hsl hpay), hrun⟩

end Sys2Proof.Machine
end

section
/-! SUPPORT. A decoding in which nothing is told from the NDP fixed part any more (R119): behind S3 the steps
look at the normalised length only, and what they raise or deliver forgets the latches. -/

namespace Sys2Proof.Machine

/-! ### Fields read from a slice -/

/-- Byte `i` of a slice is byte `off + i` of the whole. -/
theorem getD_slice {b : Bytes} {off n i : Nat} (h : i < n) :
    (slice b off n).getD i 0 = b.getD (off + i) 0 := by
  simp [slice, List.getD_eq_getElem?_getD, List.getElem?_take_of_lt h]

/-- A 16-bit field of a slice is a field of the whole. -/
theorem u16At_slice {b : Bytes} {off n i : Nat} (h : i + 2 ≤ n) :
    u16At (slice b off n) i = u16At b (off + i) := by
  rw [u16At, getD_slice (by omega), getD_slice (by omega)]
  rfl

/-- A 32-bit field of a slice is a field of the whole. -/
theorem u32At_slice {b : Bytes} {off n i : Nat} (h : i + 4 ≤ n) :
    u32At (slice b off n) i = u32At b (off + i) := by
  rw [u32At, getD_slice (by omega), getD_slice (by omega), getD_slice (by omega),
    getD_slice (by omega)]
  rfl

/-- A 32-bit field of the first part is there whatever follows. -/
theorem u32At_append {a : Bytes} {i : Nat} (h : i + 4 ≤ a.length) (b : Bytes) :
    u32At (a ++ b) i = u32At a i := by
  have head (j : Nat) (hj : j < a.length) : (a ++ b).getD j 0 = a.getD j 0 := by
    simp only [List.getD_eq_getElem?_getD, List.getElem?_append_left hj]
  rw [u32At, head i (by omega), head (i + 1) (by omega), head (i + 2) (by omega),
    head (i + 3) (by omega)]
  rfl

/-- The field behind the first part is the first of what follows. -/
theorem u16At_append_length {a : Bytes} {n : Nat} (h : a.length = n) (x y : Byte) (b : Bytes) :
    u16At (a ++ ([x, y] ++ b)) n = le16Of x y := by
  subst h
  simp [u16At, List.getD_eq_getElem?_getD]

/-! ### Reading from a stream that ends -/

/-- The transport answers every call from its stream, and nothing comes after it (R152; log 8). -/
structure DecState.Streaming (d : DecState) : Prop where
  verdicts : d.rx.verdicts = []
  ended : d.rx.ended = true

/-- An answered call leaves such a transport as it is. -/
theorem DecState.Streaming.rxAdvance {d : DecState} (h : d.Streaming) (n : Nat) :
    (d.rxAdvance n).Streaming :=
  ⟨by rw [DecState.rxAdvance_verdicts, h.verdicts]; rfl, h.ended⟩

/-- It depends on the transport alone. -/
theorem DecState.Streaming.of_rx {d d' : DecState} (h : d.Streaming) (hrx : d'.rx = d.rx) :
    d'.Streaming := ⟨by rw [hrx, h.verdicts], by rw [hrx, h.ended]⟩

/-- A reading step takes its bytes where they are there, and raises where they are not (R41, R194). -/
theorem readThen_of_streaming {d : DecState} (h : d.Streaming) (n : Nat)
    (k : Bytes → DecState → DecState) :
    readThen n k d = if n ≤ d.rx.stream.length then k (d.rx.stream.take n) (d.rxAdvance n)
      else (d.rxAdvance d.rx.stream.length).raise .truncatedTransfer := by
  rw [readThen, rxRead_of_serving (.inl h.verdicts)]
  rcases rxServe_cases n d with ⟨hle, e⟩ | ⟨hlt, -, e⟩ | ⟨_, hend, _⟩
  · rw [e, if_pos hle]
  · rw [e, if_neg (Nat.not_le.mpr hlt)]
  · cases h.ended.symm.trans hend

/-! ### Steps that do not look at the NDP latches -/

/-- `d` with other NDP latches (R17). -/
def DecState.withNdp (p : Ndpf) (d : DecState) : DecState := { d with work := { d.work with ndp := p } }

theorem DecState.withNdp_rx (p : Ndpf) (d : DecState) : (d.withNdp p).rx = d.rx := rfl

theorem DecState.withNdp_phase (p : Ndpf) (d : DecState) : (d.withNdp p).phase = d.phase := rfl

/-- Two Decoders that go on alike: in the same state with the operation ended, or both at phase `q` and
different in the NDP latches only. -/
inductive AlikeAt (q : Phase) : DecState → DecState → Prop
  | ended {d : DecState} (h : d.phase = .idle) : AlikeAt q d d
  | going {d : DecState} (p : Ndpf) (hq : d.phase = q) (hs : d.Streaming) : AlikeAt q d (d.withNdp p)

/-- A raise forgets the latches (R200, U2). -/
theorem raise_withNdp (k : ErrorKind) (p : Ndpf) (d : DecState) :
    (d.withNdp p).raise k = d.raise k := raise_with k _ d.phase d

/-- A raise ends both alike. -/
theorem AlikeAt.raise (q : Phase) (k : ErrorKind) (p : Ndpf) (d : DecState) :
    AlikeAt q (d.raise k) ((d.withNdp p).raise k) := by
  rw [raise_withNdp]
  exact .ended (d.raise_phase k)

/-- A reading step goes on alike where what follows the read does. -/
theorem AlikeAt.readThen {q : Phase} {n : Nat} {k : Bytes → DecState → DecState} (p : Ndpf)
    {d : DecState} (hs : d.Streaming)
    (hk : ∀ b d, d.Streaming → AlikeAt q (k b d) (k b (d.withNdp p))) :
    AlikeAt q (readThen n k d) (readThen n k (d.withNdp p)) := by
  rw [readThen_of_streaming hs, readThen_of_streaming (hs.of_rx (d.withNdp_rx p)), d.withNdp_rx p]
  by_cases hn : n ≤ d.rx.stream.length
  · rw [if_pos hn, if_pos hn]
    exact hk _ _ (hs.rxAdvance n)
  · rw [if_neg hn, if_neg hn]
    exact .raise q _ p (d.rxAdvance d.rx.stream.length)

/-- Two Decoders at a step's phase take it alike; ended ones stay as they are. -/
theorem AlikeAt.thenAt {q q' : Phase} {f : DecState → DecState} {d d' : DecState}
    (h : AlikeAt q d d') (hq : q ≠ .idle)
    (hf : ∀ d p, d.Streaming → AlikeAt q' (f d) (f (d.withNdp p))) :
    AlikeAt q' (d.thenAt q f) (d'.thenAt q f) := by
  cases h with
  | ended hidle =>
    have stays : d.thenAt q f = d := if_neg fun hd => hq (hd.symm.trans hidle)
    rw [stays]
    exact .ended hidle
  | going p hd hs =>
    have hrun : d.thenAt q f = f d := if_pos hd
    have hrun' : (d.withNdp p).thenAt q f = f (d.withNdp p) := if_pos hd
    rw [hrun, hrun']
    exact hf d p hs

/-- S4 counts the normalised length and reads the table (R143). -/
theorem stepS4_alike (d : DecState) (p : Ndpf) (hs : d.Streaming) :
    AlikeAt .s5Pad d.stepS4 (d.withNdp p).stepS4 := by
  cases hc : entryCount d.work.ndpLen with
  | error k =>
    have hraise (d : DecState) (hc : entryCount d.work.ndpLen = .error k) :
        d.stepS4 = DecState.raise k { d with phase := .s4Ent } := by simp [DecState.stepS4, hc]
    rw [hraise d hc, hraise (d.withNdp p) hc]
    exact .raise _ k p { d with phase := .s4Ent }
  | ok c =>
    by_cases h0 : c = 0
    · subst h0
      rw [stepS4_of_no_entries hc, stepS4_of_no_entries (d := d.withNdp p) hc]
      exact .going p rfl (hs.of_rx rfl)
    · rw [stepS4_of_entries hc h0, stepS4_of_entries (d := d.withNdp p) hc h0]
      exact .readThen p (hs.of_rx rfl) fun _ _ hd => .going p rfl (hd.of_rx rfl)

/-- S5 reads two bytes of any value (R144). -/
theorem stepS5_alike (d : DecState) (p : Ndpf) (hs : d.Streaming) :
    AlikeAt .s6Len d.stepS5 (d.withNdp p).stepS5 :=
  .readThen p (d := { d with phase := .s5Pad }) (hs.of_rx rfl)
    fun _ _ hd => .going p rfl (hd.of_rx rfl)

/-- S6 computes from the NTH latches, the normalised length and the table (R145). -/
theorem stepS6_alike (d : DecState) (p : Ndpf) (hs : d.Streaming) :
    AlikeAt .s7Pay d.stepS6 (d.withNdp p).stepS6 := by
  unfold DecState.stepS6
  cases hl : lengths d.work.nth.hlen d.work.ndpLen d.work.nth.blen d.work.ent with
  | error k =>
    simp only [DecState.withNdp, hl]
    exact .raise _ k p { d with phase := .s6Len }
  | ok r =>
    simp only [DecState.withNdp, hl]
    exact .going p rfl (hs.of_rx rfl)

/-- S7 reads the payload, if there is one (R146, R64). -/
theorem stepS7_alike (d : DecState) (p : Ndpf) (hs : d.Streaming) :
    AlikeAt .s8Extract d.stepS7 (d.withNdp p).stepS7 := by
  by_cases h0 : d.work.plen = 0
  · rw [stepS7_of_no_payload h0, stepS7_of_no_payload (d := d.withNdp p) h0]
    exact .going p rfl (hs.of_rx rfl)
  · rw [stepS7_of_payload h0, stepS7_of_payload (d := d.withNdp p) h0]
    exact .readThen p (d := { d with phase := .s7Pay }) (hs.of_rx rfl)
      fun _ _ hd => .going p rfl (hd.of_rx rfl)

/-- Steps S1 to S3: an NTB up to its normalised length. -/
def DecState.readHead (d : DecState) : DecState :=
  (d.stepS1.thenAt .s2Ndpf DecState.stepS2).thenAt .s3Norm DecState.stepS3

/-- Decoders alike behind S3 are alike behind S7 (R119). -/
theorem AlikeAt.readNtb {d d' : DecState} (h : AlikeAt .s4Ent d.readHead d'.readHead) :
    AlikeAt .s8Extract d.readNtb d'.readNtb :=
  (((h.thenAt nofun stepS4_alike).thenAt nofun stepS5_alike).thenAt nofun stepS6_alike).thenAt
    nofun stepS7_alike

/-! ### The end of a read -/

/-- What a read does once S7 is past: the traversal, the release and the delivery (R147 to R149).
`read_eq_finishRead` ties it to the machine. -/
def DecState.finishRead (d : DecState) : Host.Outcome DecState Fault Refusal :=
  andThen (andThen (d.goOnAt .s8Extract DecState.stepS8) (DecState.goOnAt .s8Extract DecState.release))
    (DecState.goOnAt .s9Serve fun d => .next d.stepS9)

/-- A read that the queue cannot serve is an NTB read and the end of the read (R131, R134). -/
theorem read_eq_finishRead {d : DecState} {max : Nat} (hp : d.phase = .idle) (hq : d.q.length < max) :
    d.read max = DecState.finishRead { d with pend := some max }.readNtb := by
  have hmax : ¬ max ≤ d.q.length := Nat.not_le.mpr hq
  simp only [DecState.read, hp, ne_eq, not_true, if_false, hmax]
  rfl

/-- The delivery forgets the latches (R149, U2). -/
theorem stepS9_withNdp (p : Ndpf) (d : DecState) : (d.withNdp p).stepS9 = d.stepS9 := by
  cases hp : d.pend <;>
    simp [DecState.stepS9, DecState.serve, DecState.answer, DecState.retire, DecState.withNdp, hp]

/-- S8 comes to the same whatever the latches, or stages the same with the latches left (R147). -/
theorem stepS8_withNdp (p : Ndpf) (d : DecState) :
    (d.withNdp p).stepS8 = d.stepS8 ∨ ∃ d', d'.phase = .s8Extract ∧ d.stepS8 = .next d' ∧
      (d.withNdp p).stepS8 = .next (d'.withNdp p) := by
  unfold DecState.stepS8
  by_cases hshort : d.work.payload.length < d.work.plen
  · exact .inl ((if_pos hshort).trans (if_pos hshort).symm)
  · cases hx : extract d.work.ent d.work.thl d.work.plen d.work.payload with
    | error k =>
      simp only [DecState.withNdp, if_neg hshort, hx]
      exact .inl (congrArg _ (raise_withNdp k p { d with phase := .s8Extract }))
    | ok l =>
      simp only [DecState.withNdp, if_neg hshort, hx]
      exact .inr ⟨_, rfl, rfl, rfl⟩

/-- The release is refused whatever the latches, or appends the same with the latches left (R148). -/
theorem release_withNdp (p : Ndpf) (d : DecState) :
    (d.withNdp p).release = d.release ∨ ∃ d', d'.phase = .s9Serve ∧ d.release = .next d' ∧
      (d.withNdp p).release = .next (d'.withNdp p) := by
  have hfits : (d.withNdp p).qAppend d.work.stage = (d.qAppend d.work.stage).map (·.withNdp p) := by
    unfold DecState.qAppend DecState.withNdp
    cases d.cfg.qCapacity with
    | none => rfl
    | some c => by_cases hc : d.q.length + d.work.stage.length ≤ c <;> simp [hc]
  have hstage : (d.withNdp p).work.stage = d.work.stage := rfl
  unfold DecState.release
  rw [hstage, hfits]
  cases d.qAppend d.work.stage with
  | none => exact .inl rfl
  | some d' => exact .inr ⟨_, rfl, rfl, rfl⟩

/-- Decoders alike before S8 end their reads with the same outcome. -/
theorem AlikeAt.finishRead {d d' : DecState} (h : AlikeAt .s8Extract d d') :
    d'.finishRead = d.finishRead := by
  cases h with
  | ended _ => rfl
  | going p hp _ =>
    have h8 : d.goOnAt .s8Extract DecState.stepS8 = d.stepS8 := if_pos hp
    have h8' : (d.withNdp p).goOnAt .s8Extract DecState.stepS8 = (d.withNdp p).stepS8 := if_pos hp
    rw [DecState.finishRead, DecState.finishRead, h8, h8']
    rcases stepS8_withNdp p d with hsame | ⟨d8, hp8, hd8, hd8'⟩
    · rw [hsame]
    · have hrel : d8.goOnAt .s8Extract DecState.release = d8.release := if_pos hp8
      have hrel' : (d8.withNdp p).goOnAt .s8Extract DecState.release = (d8.withNdp p).release :=
        if_pos hp8
      rw [hd8, hd8', andThen, andThen, hrel, hrel']
      rcases release_withNdp p d8 with hsame | ⟨d9, hp9, hd9, hd9'⟩
      · rw [hsame]
      · rw [hd9, hd9']
        simp only [andThen, DecState.goOnAt, hp9, if_true, DecState.withNdp_phase, stepS9_withNdp]

/-! ### The first twenty bytes -/

/-- The Decoder behind S3 of an NTB whose first two structures are `h` and `p` (R140 to R142).
`readHead_of_streaming` ties it to the machine. -/
def DecState.pastS3 (h : Nth) (p : Ndpf) (d : DecState) : DecState :=
  { (d.rxAdvance 12).rxAdvance 8 with
    work := { d.work with nth := h, ndp := p, ndpLen := normalise d.cfg p.lenRaw }
    phase := .s4Ent }

/-- With twenty bytes there and both signatures right, S1 to S3 take the two structures (R140 to R142). -/
theorem readHead_of_streaming {d : DecState} (hs : d.Streaming) (hlen : 20 ≤ d.rx.stream.length)
    (hnth : (parseNTH (slice d.rx.stream 0 12)).sig = d.cfg.nthSig)
    (hndp : (parseNDPF (slice d.rx.stream 12 8)).sig = d.cfg.ndpSig) :
    d.readHead =
      d.pastS3 (parseNTH (slice d.rx.stream 0 12)) (parseNDPF (slice d.rx.stream 12 8)) := by
  have h1 : d.stepS1 = { d.rxAdvance 12 with
      work := { d.work with nth := parseNTH (slice d.rx.stream 0 12) }, phase := .s2Ndpf } := by
    have hle : Config.nthLen ≤ d.rx.stream.length := Nat.le_trans (by decide) hlen
    have hread := readThen_of_streaming (d := { d with phase := .s1Nth }) (hs.of_rx rfl)
    exact ((hread _ _).trans (if_pos hle)).trans (latchNth_of_sig hnth)
  have h2 (w : DecWork) : DecState.stepS2 { d.rxAdvance 12 with work := w, phase := .s2Ndpf } =
      { (d.rxAdvance 12).rxAdvance 8 with
        work := { w with ndp := parseNDPF (slice d.rx.stream 12 8) }, phase := .s3Norm } := by
    have hle : Config.ndpfLen ≤ (d.rx.stream.drop 12).length := by
      rw [List.length_drop]; exact Nat.le_sub_of_add_le hlen
    have hread := readThen_of_streaming (d := { d.rxAdvance 12 with work := w, phase := .s2Ndpf })
      ((hs.rxAdvance 12).of_rx rfl)
    exact ((hread _ _).trans (if_pos hle)).trans (latchNdpf_of_sig hndp)
  have hrun2 : d.stepS1.thenAt .s2Ndpf DecState.stepS2 = d.stepS1.stepS2 :=
    if_pos (by rw [h1])
  rw [DecState.readHead, hrun2, h1, h2]
  rfl

/-- `d` with `b` to come from RX. -/
def DecState.onStream (b : Bytes) (d : DecState) : DecState := { d with rx := { d.rx with stream := b } }

theorem DecState.Streaming.onStream {d : DecState} (h : d.Streaming) (b : Bytes) :
    (d.onStream b).Streaming := ⟨h.verdicts, h.ended⟩

/-- Behind S3 two streams that are the same from byte 20 on leave Decoders that differ in the NDP latches
only, where both lengths normalise to the same. -/
theorem pastS3_onStream {b b' : Bytes} {p p' : Ndpf} {d : DecState} (h : Nth)
    (hdrop : b.drop 20 = b'.drop 20) (hnorm : normalise d.cfg p.lenRaw = normalise d.cfg p'.lenRaw) :
    (d.onStream b').pastS3 h p' = ((d.onStream b).pastS3 h p).withNdp p' := by
  simp [DecState.pastS3, DecState.onStream, DecState.withNdp, DecState.rxAdvance, hdrop, hnorm]

/-- The structures in the first twenty bytes of a stream whose NDP `Length` is the two bytes `x`, `y`: the
NTH and the NDP signature stand before those bytes (R71, R72). -/
theorem parse_of_ndpLength {head : Bytes} (h : head.length = 16) (x y : Byte) (rest : Bytes) :
    parseNTH (slice (head ++ ([x, y] ++ rest)) 0 12) = parseNTH (slice head 0 12) ∧
    (parseNDPF (slice (head ++ ([x, y] ++ rest)) 12 8)).sig = u32At head 12 ∧
    (parseNDPF (slice (head ++ ([x, y] ++ rest)) 12 8)).lenRaw = le16Of x y := by
  refine ⟨?_, ?_, ?_⟩
  · rw [slice, slice, List.drop_zero, List.drop_zero, List.take_append_of_le_length (by omega)]
  · rw [parseNDPF, u32At_slice (by omega), u32At_append (by omega)]
  · rw [parseNDPF, u16At_slice (by omega), u16At_append_length h]

/-- A read of an NTB of that shape, with both signatures right, stands behind S3 with the two structures
(R140 to R142). -/
theorem readHead_of_ndpLength {d : DecState} {head rest : Bytes} (hs : d.Streaming)
    (hhead : head.length = 16) (hrest : 2 ≤ rest.length) (hnth : u32At head 0 = d.cfg.nthSig)
    (hndp : u32At head 12 = d.cfg.ndpSig) (x y : Byte) :
    (d.onStream (head ++ ([x, y] ++ rest))).readHead =
      (d.onStream (head ++ ([x, y] ++ rest))).pastS3 (parseNTH (slice head 0 12))
        (parseNDPF (slice (head ++ ([x, y] ++ rest)) 12 8)) := by
  obtain ⟨hn, hsig, -⟩ := parse_of_ndpLength hhead x y rest
  have hnsig : (parseNTH (slice head 0 12)).sig = d.cfg.nthSig := by
    rw [parseNTH, u32At_slice (by omega), hnth]
  have hlen : 20 ≤ (head ++ ([x, y] ++ rest)).length := by
    simp only [List.length_append, List.length_cons, List.length_nil]; omega
  rw [← hn] at hnsig ⊢
  exact readHead_of_streaming (hs.onStream _) hlen hnsig
    (hsig.trans hndp)

/-- Two reads whose streams differ only in the NDP `Length` end alike where both lengths normalise to the
same (R119). -/
theorem read_of_ndpLength {d : DecState} {head rest : Bytes} {max : Nat} {x y x' y' : Byte}
    (hs : d.Streaming) (hp : d.phase = .idle) (hq : d.q.length < max) (hhead : head.length = 16)
    (hrest : 2 ≤ rest.length) (hnth : u32At head 0 = d.cfg.nthSig)
    (hndp : u32At head 12 = d.cfg.ndpSig)
    (hnorm : normalise d.cfg (le16Of x y) = normalise d.cfg (le16Of x' y')) :
    (d.onStream (head ++ ([x', y'] ++ rest))).read max =
      (d.onStream (head ++ ([x, y] ++ rest))).read max := by
  let e : DecState := { d with pend := some max }
  have hse : e.Streaming := hs.of_rx rfl
  obtain ⟨-, -, hlen⟩ := parse_of_ndpLength hhead x y rest
  obtain ⟨-, -, hlen'⟩ := parse_of_ndpLength hhead x' y' rest
  have hdrop : (head ++ ([x, y] ++ rest)).drop 20 = (head ++ ([x', y'] ++ rest)).drop 20 := by
    simp [List.drop_append, hhead]
  have hfirst : AlikeAt .s4Ent (e.onStream (head ++ ([x, y] ++ rest))).readHead
      (e.onStream (head ++ ([x', y'] ++ rest))).readHead := by
    rw [readHead_of_ndpLength hse hhead hrest hnth hndp x y,
      readHead_of_ndpLength hse hhead hrest hnth hndp x' y',
      pastS3_onStream _ hdrop (by rw [hlen, hlen']; exact hnorm)]
    exact .going _ rfl ((((hse.onStream _).rxAdvance 12).rxAdvance 8).of_rx rfl)
  have hread (b : Bytes) : (d.onStream b).read max = (e.onStream b).readNtb.finishRead :=
    read_eq_finishRead (d := d.onStream b) hp hq
  rw [hread, hread]
  exact hfirst.readNtb.finishRead

end Sys2Proof.Machine
end

section
/-! The quirk law. -/

namespace Sys2Proof.Machine

/-- Settles O40: 0x8C and 0x3C normalise to the same length, and behind S3 nothing else is told of them. -/
theorem quirkLaw : Obligations.QuirkLaw := by
  intro s max head rest hhead hquirk hp hq hverdicts hended hrest hnth hndp onStream
  have hnorm : normalise s.dec.cfg (le16Of 0x3C 0) = normalise s.dec.cfg (le16Of 0x8C 0) := by
    rw [normalise, normalise, hquirk]; rfl
  have hread := read_of_ndpLength ⟨hverdicts, hended⟩ hp hq hhead hrest hnth hndp hnorm
  have hexec (b : Bytes) : exec (.decRead max) (onStream b) = s.withDec ((s.dec.onStream b).read max) :=
    State.withDec_overwrite s _ _
  rw [hexec, hexec, List.append_assoc, List.append_assoc, hread]

end Sys2Proof.Machine
end

section
/-! SUPPORT. The Decoder's steps by their cases: what S1, S2, S4, S6, S8, the release and S9 raise, and what
they do where they do not (R140 to R149). -/

namespace Sys2Proof.Machine

/-! ### The steps that check what was read -/

/-- A header with another signature raises (R140). -/
theorem latchNth_of_ne {h : Nth} {d : DecState} (hsig : h.sig ≠ d.cfg.nthSig) :
    d.latchNth h = DecState.raise .malformedHeader { d with work := { d.work with nth := h } } :=
  if_neg hsig

/-- A pointer with another signature raises (R141). -/
theorem latchNdpf_of_ne {p : Ndpf} {d : DecState} (hsig : p.sig ≠ d.cfg.ndpSig) :
    d.latchNdpf p =
      DecState.raise .malformedDatagramPointer { d with work := { d.work with ndp := p } } :=
  if_neg hsig

/-- S4 raises on an impossible table length, before anything is read (R143, R195 a). -/
theorem stepS4_of_error {d : DecState} {k : ErrorKind} (h : entryCount d.work.ndpLen = .error k) :
    d.stepS4 = DecState.raise k { d with phase := .s4Ent } := by
  simp [DecState.stepS4, h]

/-- S6 raises on inconsistent lengths (R145). -/
theorem stepS6_of_error {d : DecState} {k : ErrorKind}
    (h : lengths d.work.nth.hlen d.work.ndpLen d.work.nth.blen d.work.ent = .error k) :
    d.stepS6 = DecState.raise k { d with phase := .s6Len } := by
  simp [DecState.stepS6, h]

/-- S6 latches consistent lengths (R145). -/
theorem stepS6_of_ok {d : DecState} {r : Nat × Nat}
    (h : lengths d.work.nth.hlen d.work.ndpLen d.work.nth.blen d.work.ent = .ok r) :
    d.stepS6 = { d with work := { d.work with thl := r.1, plen := r.2 }, phase := .s7Pay } := by
  simp [DecState.stepS6, h]

/-- With the payload in its buffer S8 raises what Extract raises (R147). -/
theorem stepS8_of_error {d : DecState} {k : ErrorKind} (hpay : d.work.payload.length = d.work.plen)
    (h : extract d.work.ent d.work.thl d.work.plen d.work.payload = .error k) :
    d.stepS8 = .next (DecState.raise k { d with phase := .s8Extract }) := by
  simp [DecState.stepS8, hpay, h]

/-- With the payload in its buffer S8 stages what Extract yields (R147). -/
theorem stepS8_of_ok {d : DecState} {l : List Bytes} (hpay : d.work.payload.length = d.work.plen)
    (h : extract d.work.ent d.work.thl d.work.plen d.work.payload = .ok l) :
    d.stepS8 = .next { d with
      work := { d.work with slices := l, stage := l.flatten, cursor := d.work.ent.length }
      phase := .s8Extract } := by
  simp [DecState.stepS8, hpay, h]

/-! ### The release (R148, U3) -/

/-- A finite queue has room for `b` (U3). -/
def DecState.HasRoom (d : DecState) (b : Bytes) : Prop :=
  ∀ c, d.cfg.qCapacity = some c → d.q.length + b.length ≤ c

/-- What fits is released: it enters the queue and the log (R148). -/
theorem release_of_hasRoom {d : DecState} (h : d.HasRoom d.work.stage) :
    d.release = .next { d with
      q := d.q ++ d.work.stage
      framesLog := d.framesLog ++ d.work.slices
      phase := .s9Serve } := by
  refine (release_cases d).resolve_left fun ⟨hnone, _⟩ => ?_
  unfold DecState.qAppend at hnone
  split at hnone
  · cases hnone
  next c hc => rw [if_pos (h c hc)] at hnone; cases hnone

/-- What does not fit is not released (U3, log 19). -/
theorem release_of_full {d : DecState} {c : Nat} (hc : d.cfg.qCapacity = some c)
    (h : c < d.q.length + d.work.stage.length) : d.release = .refused .queueOverflow := by
  have hnone : d.qAppend d.work.stage = none := by
    simp [DecState.qAppend, hc, Nat.not_le.mpr h]
  rw [DecState.release, hnone]

/-! ### The delivery (R149) -/

/-- The outstanding read gets the head of the queue, as much of it as it asks for (R149). -/
theorem serve_of_pend {d : DecState} {max : Nat} (h : d.pend = some max) :
    d.serve.answers = d.answers ++ [.ok (d.q.take max)] ∧ d.serve.q = d.q.drop max := by
  obtain ⟨hq, hanswers⟩ := serve_eq h
  rw [hq, hanswers]
  constructor
  · rw [← List.take_eq_take_min]
  · by_cases hmax : max ≤ d.q.length
    · rw [Nat.min_eq_left hmax]
    · rw [Nat.min_eq_right (by omega), List.drop_length, List.drop_of_length_le (by omega)]

/-- DEC.READ of an idle Decoder whose queue holds enough is the delivery (R131, R132). -/
theorem read_of_queued {d : DecState} {max : Nat} (hp : d.phase = .idle) (hq : max ≤ d.q.length) :
    d.read max = .next { d with
      q := d.q.drop max
      answers := d.answers ++ [.ok (d.q.take max)]
      pend := none } := by
  simp [DecState.read, hp, hq, DecState.serve, DecState.answer]

/-- DEC.READ of an idle Decoder whose queue is shorter is one DEC.NTB, and the delivery behind a release
(R131, R132). -/
theorem read_of_short {d : DecState} {max : Nat} (hp : d.phase = .idle) (hq : d.q.length < max) :
    d.read max = andThen { d with pend := some max }.decodeNtb
      (DecState.goOnAt .s9Serve fun d => .next d.stepS9) := read_eq_finishRead hp hq

/-! ### The two operations as instructions -/

/-- DEC.NTB is the Decoder's, lifted (R29, R134). -/
theorem exec_decNtb {s : State} {d : DecState} (h : s.dec.decodeNtb = .next d) :
    exec .decNtb s = .next { s with dec := d } := by
  rw [exec, execDecNtb, h, State.withDec_next]

/-- DEC.READ is the Decoder's, lifted (R29, R131). -/
theorem exec_decRead {s : State} {max : Nat} {d : DecState} (h : s.dec.read max = .next d) :
    exec (.decRead max) s = .next { s with dec := d } := by
  rw [exec, execDecRead, h, State.withDec_next]

end Sys2Proof.Machine
end

section
/-! The statements about single steps of the Decoder, and about a read that the queue serves. -/

namespace Sys2Proof.Machine

/-- Settles O32: the payload is in its buffer, so S8 is Extract of the whole table. -/
theorem traversalStep : Obligations.TraversalStep := by
  refine fun s hpay => ⟨fun hin => ?_, fun ⟨e, he, hlive, hout⟩ => ?_⟩
  · exact congrArg s.withDec (stepS8_of_ok hpay (extract_of_inBounds s.dec.work.payload hin))
  · have herr := extract_of_outOfBounds s.dec.work.payload ⟨e, he, hlive, not_inBounds_iff.mpr hout⟩
    exact ⟨_, congrArg s.withDec (stepS8_of_error hpay herr), ⟨rfl, rfl, rfl⟩,
      raised_raise .corruptFrame .s8Extract s.dec⟩

/-- Settles O24: S1, S2, S5 and S7 are the structures they read, S4 is its one call. -/
theorem readingStepsTakeTheirStructure : Obligations.ReadingStepsTakeTheirStructure := by
  intro s n b hb d
  have hlen : b.length = n := rxPeek_length hb
  refine ⟨(rxRead_of_peek hb).1, hlen, fun hn hsig => ?_, fun hn hsig => ?_, fun c hc h0 hn => ?_,
    fun hn => ?_, fun hn h0 => ?_⟩
  · subst hn
    rw [← exec_nth_of_peek hb]
    exact congrArg (fun d => s.withDec (.next d)) (latchNth_of_sig hsig)
  · subst hn
    rw [← exec_ndpf_of_peek hb]
    exact congrArg (fun d => s.withDec (.next d)) (latchNdpf_of_sig hsig)
  · subst hn
    have hpeek := (rxPeek_congr (d := s.dec) (d' := { s.dec with
      phase := .s4Ent, work := { s.dec.work with nEnt := c } }) rfl).trans hb
    rw [exec, execDecS4, stepS4_of_entries hc h0, readThen_of_peek hpeek]
    rfl
  · subst hn
    rw [← exec_pad_of_peek hb]
    rfl
  · subst hn
    have hne : b ≠ [] := fun hnil => h0 (by rw [← hlen, hnil]; rfl)
    rw [← exec_payload_of_peek h0 hb, exec_payload_of_length hlen hne, hlen]
    rfl

/-- Settles O29: S3 is one assignment. -/
theorem normalisationStep : Obligations.NormalisationStep := fun _ => rfl

/-- Settles O30: the count fails before the table is asked for. -/
theorem tableLengthRejected : Obligations.TableLengthRejected := by
  intro s hne
  exact ⟨_, congrArg (fun d => s.withDec (.next d)) (stepS4_of_error (entryCount_of_ne hne)),
    ⟨rfl, rfl, rfl⟩, raised_raise .inconsistentLength .s4Ent s.dec⟩

/-- Settles O31: the two tests of R107, on the latches. -/
theorem lengthsStep : Obligations.LengthsStep := by
  refine fun s => ⟨fun hfit hroom => ?_, fun hbad => ?_⟩
  · exact congrArg (fun d => s.withDec (.next d)) (stepS6_of_ok (lengths_of_fits hfit hroom))
  · have herr : lengths s.dec.work.nth.hlen s.dec.work.ndpLen s.dec.work.nth.blen s.dec.work.ent =
        .error .inconsistentLength := by
      rw [lengths_eq, if_pos (hbad.imp_right fun ⟨hexact, hlive⟩ => ⟨hexact, hasLive_iff.mpr hlive⟩)]
    exact ⟨_, congrArg (fun d => s.withDec (.next d)) (stepS6_of_error herr), ⟨rfl, rfl, rfl⟩,
      raised_raise .inconsistentLength .s6Len s.dec⟩

/-- Settles O33: the queue takes the whole stage, or nothing is released. -/
theorem releaseStep : Obligations.ReleaseStep :=
  fun s => ⟨fun hroom => congrArg s.withDec (release_of_hasRoom hroom),
    fun _ hc hfull => congrArg s.withDec (release_of_full hc hfull)⟩

/-- Settles O34: the queue is what the caller gets and what remains. -/
theorem serveTakesFromHead : Obligations.ServeTakesFromHead := by
  intro s max hpend
  obtain ⟨hanswers, hq⟩ := serve_of_pend hpend
  refine ⟨_, s.dec.q.take max, rfl, ⟨rfl, rfl, rfl⟩, List.length_take, ?_, hanswers,
    s.dec.serve_pend, s.dec.serve_phase, s.dec.serve_framesLog, s.dec.serve_fault,
    s.dec.serve_rxCount, s.dec.serve_rx, s.dec.serve_cfg, s.dec.serve_reqs⟩
  exact (List.take_append_drop max s.dec.q).symm.trans (congrArg (s.dec.q.take max ++ ·) hq.symm)

/-- Settles O38: the delivery, with no NTB before it. -/
theorem readServedFromQueue : Obligations.ReadServedFromQueue :=
  fun _ _ hp hq => ⟨_, exec_decRead (read_of_queued hp hq), ⟨rfl, rfl, rfl⟩, rfl⟩

end Sys2Proof.Machine
end

section
/-! SUPPORT. DEC.NTB on a stream that ends (R134, R152): a Decoder in the middle of an NTB is the one it was
at its start but for the bytes taken, the working registers and the phase, and from each phase on the
operation ends as the rest of the big-step function says. -/

namespace Sys2Proof.Machine

/-! ### A Decoder in the middle of an NTB -/

/-- `d` in phase `p` of an NTB of which `n` bytes are taken, with the working registers `w`. -/
def DecState.reading (n : Nat) (w : DecWork) (p : Phase) (d : DecState) : DecState :=
  { d with
    rx := { d.rx with stream := d.rx.stream.drop n }
    rxCount := d.rxCount + n
    work := w
    phase := p }

/-- What is taken from such a transport leaves it as it is. -/
theorem DecState.Streaming.reading {d : DecState} (h : d.Streaming) (n : Nat) (w : DecWork) (p : Phase) :
    (d.reading n w p).Streaming := ⟨h.verdicts, h.ended⟩

/-- An answered call takes the next bytes of the NTB. -/
theorem rxAdvance_reading {d : DecState} (h : d.Streaming) (n m : Nat) (w : DecWork) (p : Phase) :
    (d.reading n w p).rxAdvance m = d.reading (n + m) w p := by
  simp [DecState.reading, DecState.rxAdvance, h.verdicts, List.drop_drop, Nat.add_assoc]

/-- A raise in the middle of an NTB has consumed what the NTB has taken (R200, R151). -/
theorem raised_reading (k : ErrorKind) (n : Nat) (w : DecWork) (p : Phase) (d : DecState) :
    Raised k n d ((d.reading n w p).raise k) :=
  have h := raised_raise k p (d.reading n w p)
  ⟨h.queue, h.log, h.cursor, h.stream, h.ended, h.status, h.phase, h.stage, h.outstanding, h.result,
    h.cfg, h.reqs⟩

section
variable {d : DecState} {n m : Nat} {w : DecWork} {p : Phase} {k : Bytes → DecState → DecState}

/-- A reading step goes on with the next `m` bytes of the NTB where they are there (R41). -/
theorem readThen_reading (hs : d.Streaming) (h : n + m ≤ d.rx.stream.length) :
    readThen m k (d.reading n w p) = k (slice d.rx.stream n m) (d.reading (n + m) w p) := by
  have hm : m ≤ (d.reading n w p).rx.stream.length := by
    have hlen : (d.reading n w p).rx.stream.length = d.rx.stream.length - n := List.length_drop
    omega
  rw [readThen_of_streaming (hs.reading n w p), if_pos hm, rxAdvance_reading hs]
  rfl

/-- A reading step raises where the stream ends before its bytes, and takes all that is left (R194). -/
theorem raised_readThen_reading (hs : d.Streaming) (hn : n ≤ d.rx.stream.length)
    (h : d.rx.stream.length < n + m) :
    Raised .truncatedTransfer d.rx.stream.length d (readThen m k (d.reading n w p)) := by
  have hlen : (d.reading n w p).rx.stream.length = d.rx.stream.length - n := List.length_drop
  have hm : ¬ m ≤ (d.reading n w p).rx.stream.length := by omega
  have hall : n + (d.reading n w p).rx.stream.length = d.rx.stream.length := by omega
  rw [readThen_of_streaming (hs.reading n w p), if_neg hm, rxAdvance_reading hs, hall]
  exact raised_reading _ _ _ _ _

end

/-! ### The big-step function from a phase on -/

/-- The big-step function from S7 on: `n` bytes are taken, the payload follows (R146, R147). -/
def bigStepS7 (rx : Bytes) (n : Nat) (es : List Entry) (thl plen : Nat) :
    Except ErrorKind (List Bytes) × Nat :=
  if rx.length < n + plen then (.error .truncatedTransfer, rx.length)
  else (extract es thl plen (slice rx n plen), n + plen)

/-- The big-step function from S6 on: the two lengths, then the payload (R145). -/
def bigStepS6 (rx : Bytes) (n : Nat) (h : Nth) (l : U16) (es : List Entry) :
    Except ErrorKind (List Bytes) × Nat :=
  match lengths h.hlen l h.blen es with
  | .error k => (.error k, n)
  | .ok (thl, plen) => bigStepS7 rx n es thl plen

/-- The big-step function from S4 on: the table behind the first 20 bytes, the padding, and the rest
(R143, R144). -/
def bigStepS4 (rx : Bytes) (h : Nth) (l : U16) : Except ErrorKind (List Bytes) × Nat :=
  match entryCount l with
  | .error k => (.error k, 20)
  | .ok c =>
    if rx.length < 22 + 4 * c then (.error .truncatedTransfer, rx.length)
    else bigStepS6 rx (22 + 4 * c) h l (parseEntries (slice rx 20 (4 * c)))

/-- The big-step function from S2 on: the pointer behind the 12 bytes of the header, its normalised length,
and the rest (R141, R142). -/
def bigStepS2 (cfg : Cfg) (rx : Bytes) (h : Nth) : Except ErrorKind (List Bytes) × Nat :=
  if rx.length < 20 then (.error .truncatedTransfer, rx.length)
  else if (parseNDPF (slice rx 12 8)).sig ≠ cfg.ndpSig then (.error .malformedDatagramPointer, 20)
  else bigStepS4 rx h (normalise cfg (parseNDPF (slice rx 12 8)).lenRaw)

/-- The big-step function is the header and the rest (R140, R152). -/
theorem bigStep_eq (cfg : Cfg) (rx : Bytes) :
    bigStep cfg rx =
      if rx.length < 12 then (.error .truncatedTransfer, rx.length)
      else if (parseNTH (slice rx 0 12)).sig ≠ cfg.nthSig then (.error .malformedHeader, 12)
      else bigStepS2 cfg rx (parseNTH (slice rx 0 12)) := rfl

/-! ### How DEC.NTB ends -/

/-- `d'` is `d` with the NTB of `n` bytes decoded and its slices released, about to serve (R148, R151). -/
structure Released (slices : List Bytes) (n : Nat) (d d' : DecState) : Prop where
  phase : d'.phase = .s9Serve
  queue : d'.q = d.q ++ slices.flatten
  log : d'.framesLog = d.framesLog ++ slices
  cursor : d'.rxCount = d.rxCount + n
  stream : d'.rx.stream = d.rx.stream.drop n
  status : d'.fault = d.fault
  answers : d'.answers = d.answers
  outstanding : d'.pend = d.pend
  cfg : d'.cfg = d.cfg
  reqs : d'.reqs = d.reqs

/-- The outcome `o` of a DEC.NTB begun in `d` is the one a result of the big-step function stands for: the
slices released where they fit, or the error raised. -/
def EndsAs (d : DecState) (o : Host.Outcome DecState Fault Refusal) :
    Except ErrorKind (List Bytes) × Nat → Prop
  | (.ok slices, n) => d.HasRoom slices.flatten → ∃ d', o = .next d' ∧ Released slices n d d'
  | (.error k, n) => ∃ d', o = .next d' ∧ Raised k n d d'

/-- DEC.NTB behind S7: the traversal and the release (R147, R148). -/
def DecState.ntbFromS8 (d : DecState) : Host.Outcome DecState Fault Refusal :=
  andThen (d.goOnAt .s8Extract DecState.stepS8) (DecState.goOnAt .s8Extract DecState.release)

/-- DEC.NTB behind S5: the lengths, the payload, and the rest (R145, R146). -/
def DecState.ntbFromS6 (d : DecState) : Host.Outcome DecState Fault Refusal :=
  ((d.thenAt .s6Len DecState.stepS6).thenAt .s7Pay DecState.stepS7).ntbFromS8

/-- DEC.NTB behind S3: the table, the padding, and the rest (R143, R144). -/
def DecState.ntbFromS4 (d : DecState) : Host.Outcome DecState Fault Refusal :=
  ((d.thenAt .s4Ent DecState.stepS4).thenAt .s5Pad DecState.stepS5).ntbFromS6

/-- DEC.NTB behind S1: the pointer, its normalised length, and the rest (R141, R142). -/
def DecState.ntbFromS2 (d : DecState) : Host.Outcome DecState Fault Refusal :=
  ((d.thenAt .s2Ndpf DecState.stepS2).thenAt .s3Norm DecState.stepS3).ntbFromS4

/-- DEC.NTB is S1 and what comes behind it (R134). -/
theorem decodeNtb_eq (d : DecState) : d.decodeNtb = d.stepS1.ntbFromS2 := rfl

/-- A step is run in its phase. -/
theorem thenAt_reading (n : Nat) (w : DecWork) (p : Phase) (f : DecState → DecState) (d : DecState) :
    (d.reading n w p).thenAt p f = f (d.reading n w p) := if_pos rfl

/-- In another phase it is not. -/
theorem thenAt_of_ne {d : DecState} {p : Phase} (h : d.phase ≠ p) (f : DecState → DecState) :
    d.thenAt p f = d := if_neg h

section
variable {d e : DecState} {k : ErrorKind} {n : Nat}

/-- A Decoder that has raised takes no further step (R134, R200). -/
theorem Raised.thenAt (h : Raised k n d e) {p : Phase} (hp : p ≠ .idle) (f : DecState → DecState) :
    Raised k n d (e.thenAt p f) := by
  rwa [thenAt_of_ne fun he => hp (he.symm.trans h.phase)]

/-- So DEC.NTB ends where it has raised, whichever phase came next. -/
theorem Raised.ntbFromS8 (h : Raised k n d e) : EndsAs d e.ntbFromS8 (.error k, n) :=
  ⟨e, by simp [DecState.ntbFromS8, DecState.goOnAt, andThen, h.phase], h⟩

theorem Raised.ntbFromS6 (h : Raised k n d e) : EndsAs d e.ntbFromS6 (.error k, n) :=
  ((h.thenAt (p := .s6Len) nofun _).thenAt (p := .s7Pay) nofun _).ntbFromS8

theorem Raised.ntbFromS4 (h : Raised k n d e) : EndsAs d e.ntbFromS4 (.error k, n) :=
  ((h.thenAt (p := .s4Ent) nofun _).thenAt (p := .s5Pad) nofun _).ntbFromS6

theorem Raised.ntbFromS2 (h : Raised k n d e) : EndsAs d e.ntbFromS2 (.error k, n) :=
  ((h.thenAt (p := .s2Ndpf) nofun _).thenAt (p := .s3Norm) nofun _).ntbFromS4

end

/-! ### From each phase on, the rest of DEC.NTB is the rest of the big-step function -/

section
variable {d : DecState} {n : Nat} {w : DecWork}

/-- The traversal and the release come to what Extract yields of the payload (R147, R148). -/
theorem ntbFromS8_reading (hpay : w.payload.length = w.plen) :
    EndsAs d (d.reading n w .s8Extract).ntbFromS8 (extract w.ent w.thl w.plen w.payload, n) := by
  have hrun : (d.reading n w .s8Extract).ntbFromS8 =
    andThen (d.reading n w .s8Extract).stepS8 (DecState.goOnAt .s8Extract DecState.release) := rfl
  rw [hrun]
  cases hx : extract w.ent w.thl w.plen w.payload with
  | error k =>
    rw [stepS8_of_error (d := d.reading n w .s8Extract) hpay hx]
    exact ⟨_, rfl, raised_reading k n w .s8Extract d⟩
  | ok l =>
    rw [stepS8_of_ok (d := d.reading n w .s8Extract) hpay hx]
    exact fun hroom => ⟨_, release_of_hasRoom hroom, ⟨rfl, rfl, rfl, rfl, rfl, rfl, rfl, rfl, rfl, rfl⟩⟩

/-- S7 takes the payload (R146, R64). -/
theorem stepS7_reading (hs : d.Streaming) (h : n + w.plen ≤ d.rx.stream.length) :
    (d.reading n w .s7Pay).stepS7 = d.reading (n + w.plen)
      { w with payload := slice d.rx.stream n w.plen, stage := [], slices := [], cursor := 0 }
      .s8Extract := by
  by_cases h0 : w.plen = 0
  · rw [stepS7_of_no_payload (d := d.reading n w .s7Pay) h0]
    simp [DecState.latchPayload, DecState.reading, slice, h0]
  · rw [stepS7_of_payload (d := d.reading n w .s7Pay) h0]
    exact readThen_reading hs h

/-- S7 where the stream ends before the payload does (R194). -/
theorem raised_stepS7_reading (hs : d.Streaming) (hn : n ≤ d.rx.stream.length)
    (h : d.rx.stream.length < n + w.plen) :
    Raised .truncatedTransfer d.rx.stream.length d (d.reading n w .s7Pay).stepS7 := by
  have h0 : w.plen ≠ 0 := by omega
  rw [stepS7_of_payload (d := d.reading n w .s7Pay) h0]
  exact raised_readThen_reading hs hn h

/-- From S7 on. -/
theorem ntbFromS7_reading (hs : d.Streaming) (hn : n ≤ d.rx.stream.length) :
    EndsAs d (d.reading n w .s7Pay).stepS7.ntbFromS8
      (bigStepS7 d.rx.stream n w.ent w.thl w.plen) := by
  unfold bigStepS7
  by_cases h : d.rx.stream.length < n + w.plen
  · rw [if_pos h]
    exact (raised_stepS7_reading hs hn h).ntbFromS8
  · rw [if_neg h, stepS7_reading hs (Nat.le_of_not_lt h)]
    refine ntbFromS8_reading ?_
    simp only [slice, List.length_take, List.length_drop]
    omega

/-- From S6 on: inconsistent lengths raise, consistent ones are latched (R145). -/
theorem ntbFromS6_reading (hs : d.Streaming) (hn : n ≤ d.rx.stream.length) :
    EndsAs d (d.reading n w .s6Len).ntbFromS6 (bigStepS6 d.rx.stream n w.nth w.ndpLen w.ent) := by
  rw [DecState.ntbFromS6, thenAt_reading]
  cases hl : lengths w.nth.hlen w.ndpLen w.nth.blen w.ent with
  | error k =>
    have h6 : (d.reading n w .s6Len).stepS6 = (d.reading n w .s6Len).raise k :=
      stepS6_of_error hl
    rw [h6, bigStepS6, hl]
    exact ((raised_reading k n w .s6Len d).thenAt (p := .s7Pay) nofun _).ntbFromS8
  | ok r =>
    have h6 : (d.reading n w .s6Len).stepS6 =
        d.reading n { w with thl := r.1, plen := r.2 } .s7Pay :=
      stepS6_of_ok hl
    rw [h6, bigStepS6, hl]
    exact ntbFromS7_reading (w := { w with thl := r.1, plen := r.2 }) hs hn

/-- S4 takes the table of the entries it has counted (R143, R64). -/
theorem stepS4_reading {c : Nat} (hs : d.Streaming) (hc : entryCount w.ndpLen = .ok c)
    (h : n + 4 * c ≤ d.rx.stream.length) :
    (d.reading n w .s4Ent).stepS4 = d.reading (n + 4 * c)
      { w with nEnt := c, ent := parseEntries (slice d.rx.stream n (4 * c)) } .s5Pad := by
  by_cases h0 : c = 0
  · subst h0
    exact stepS4_of_no_entries hc
  · rw [stepS4_of_entries hc h0]
    exact readThen_reading (w := { w with nEnt := c }) hs h

/-- S4 where the stream ends before the table does (R194). -/
theorem raised_stepS4_reading {c : Nat} (hs : d.Streaming) (hn : n ≤ d.rx.stream.length)
    (hc : entryCount w.ndpLen = .ok c) (h : d.rx.stream.length < n + 4 * c) :
    Raised .truncatedTransfer d.rx.stream.length d (d.reading n w .s4Ent).stepS4 := by
  have h0 : c ≠ 0 := by omega
  rw [stepS4_of_entries hc h0]
  exact raised_readThen_reading (w := { w with nEnt := c }) hs hn h

/-- From S5 on: the two bytes of padding (R144). -/
theorem ntbFromS5_reading (hs : d.Streaming) (hn : n ≤ d.rx.stream.length) :
    EndsAs d (d.reading n w .s5Pad).stepS5.ntbFromS6
      (if d.rx.stream.length < n + 2 then (.error .truncatedTransfer, d.rx.stream.length)
        else bigStepS6 d.rx.stream (n + 2) w.nth w.ndpLen w.ent) := by
  by_cases h : d.rx.stream.length < n + 2
  · rw [if_pos h]
    exact Raised.ntbFromS6 (raised_readThen_reading (p := .s5Pad) hs hn h)
  · have h5 : (d.reading n w .s5Pad).stepS5 = d.reading (n + 2)
        { w with pad := ((slice d.rx.stream n 2).getD 0 0, (slice d.rx.stream n 2).getD 1 0) }
        .s6Len :=
      readThen_reading (w := w) (p := .s5Pad)
        (k := fun b d => d.latchPad (b.getD 0 0) (b.getD 1 0)) hs (Nat.le_of_not_lt h)
    rw [if_neg h, h5]
    exact ntbFromS6_reading (w := { w with pad := _ }) hs (Nat.le_of_not_lt h)

/-- From S4 on: the table and the padding, of which the stream may end before either (R143, R144). -/
theorem ntbFromS4_reading (hs : d.Streaming) (hn : 20 ≤ d.rx.stream.length) :
    EndsAs d (d.reading 20 w .s4Ent).ntbFromS4 (bigStepS4 d.rx.stream w.nth w.ndpLen) := by
  rw [DecState.ntbFromS4, thenAt_reading, bigStepS4]
  cases hc : entryCount w.ndpLen with
  | error k =>
    rw [stepS4_of_error (d := d.reading 20 w .s4Ent) hc]
    exact ((raised_reading k 20 w .s4Ent d).thenAt (p := .s5Pad) nofun _).ntbFromS6
  | ok c =>
    dsimp only
    by_cases htable : d.rx.stream.length < 20 + 4 * c
    · rw [if_pos (by omega)]
      exact ((raised_stepS4_reading hs hn hc htable).thenAt (p := .s5Pad) nofun _).ntbFromS6
    · have htable' : 20 + 4 * c ≤ d.rx.stream.length := Nat.le_of_not_lt htable
      have hpad : 22 + 4 * c = 20 + 4 * c + 2 := by omega
      rw [stepS4_reading hs hc htable', thenAt_reading, hpad]
      exact ntbFromS5_reading
        (w := { w with nEnt := c, ent := parseEntries (slice d.rx.stream 20 (4 * c)) }) hs htable'

/-- From S2 on: the pointer, and S3, which cannot fail (R141, R142). -/
theorem ntbFromS2_reading (hs : d.Streaming) (hn : 12 ≤ d.rx.stream.length) :
    EndsAs d (d.reading 12 w .s2Ndpf).ntbFromS2 (bigStepS2 d.cfg d.rx.stream w.nth) := by
  rw [DecState.ntbFromS2, thenAt_reading, bigStepS2]
  by_cases hlen : d.rx.stream.length < 20
  · rw [if_pos hlen]
    have hraised : Raised .truncatedTransfer d.rx.stream.length d (d.reading 12 w .s2Ndpf).stepS2 :=
      raised_readThen_reading hs hn hlen
    exact (hraised.thenAt (p := .s3Norm) nofun _).ntbFromS4
  · have hlen' : 20 ≤ d.rx.stream.length := Nat.le_of_not_lt hlen
    have h2 : (d.reading 12 w .s2Ndpf).stepS2 =
        (d.reading 20 w .s2Ndpf).latchNdpf (parseNDPF (slice d.rx.stream 12 8)) :=
      readThen_reading (m := 8) hs hlen'
    rw [if_neg hlen, h2]
    by_cases hsig : (parseNDPF (slice d.rx.stream 12 8)).sig = d.cfg.ndpSig
    · rw [if_neg (not_not.mpr hsig), latchNdpf_of_sig (d := d.reading 20 w .s2Ndpf) hsig]
      exact ntbFromS4_reading hs hlen'
    · rw [if_pos hsig, latchNdpf_of_ne (d := d.reading 20 w .s2Ndpf) hsig]
      exact ((raised_reading _ 20 _ .s2Ndpf d).thenAt (p := .s3Norm) nofun _).ntbFromS4

/-- DEC.NTB ends as the big-step function of its stream says (R134, R152). -/
theorem decodeNtb_of_streaming (hs : d.Streaming) :
    EndsAs d d.decodeNtb (bigStep d.cfg d.rx.stream) := by
  rw [decodeNtb_eq, bigStep_eq]
  by_cases hlen : d.rx.stream.length < 12
  · rw [if_pos hlen]
    have hraised : Raised .truncatedTransfer d.rx.stream.length d d.stepS1 :=
      raised_readThen_reading (n := 0) hs (Nat.zero_le _) ((Nat.zero_add 12).symm ▸ hlen)
    exact hraised.ntbFromS2
  · have hlen' : 12 ≤ d.rx.stream.length := Nat.le_of_not_lt hlen
    have h1 : d.stepS1 =
        (d.reading 12 d.work .s1Nth).latchNth (parseNTH (slice d.rx.stream 0 12)) :=
      readThen_reading (n := 0) (m := 12) hs ((Nat.zero_add 12).symm ▸ hlen')
    rw [if_neg hlen, h1]
    by_cases hsig : (parseNTH (slice d.rx.stream 0 12)).sig = d.cfg.nthSig
    · rw [if_neg (not_not.mpr hsig), latchNth_of_sig (d := d.reading 12 d.work .s1Nth) hsig]
      exact ntbFromS2_reading (w := { d.work with nth := parseNTH (slice d.rx.stream 0 12) }) hs hlen'
    · rw [if_pos hsig, latchNth_of_ne (d := d.reading 12 d.work .s1Nth) hsig]
      exact (raised_reading _ 12 _ .s1Nth d).ntbFromS2

end

/-! ### The bytes of a decoded NTB (R151) -/

/-- A payload that is there is taken, and nothing behind it. -/
theorem bigStepS7_eq_ok {rx : Bytes} {n m thl plen : Nat} {es : List Entry} {slices : List Bytes}
    (h : bigStepS7 rx n es thl plen = (.ok slices, m)) : m = n + plen ∧ m ≤ rx.length := by
  unfold bigStepS7 at h
  split at h
  · cases h
  · have hm := (Prod.mk.inj h).2
    omega

/-- Behind the table and the padding, what `BlockLength` leaves is taken (R107). -/
theorem bigStepS6_eq_ok {rx : Bytes} {n m : Nat} {h : Nth} {l : U16} {es : List Entry}
    {slices : List Bytes} (hok : bigStepS6 rx n h l es = (.ok slices, m)) :
    m + (h.hlen.toNat + l.toNat + 2) = n + h.blen.toNat ∧ m ≤ rx.length := by
  unfold bigStepS6 at hok
  split at hok
  · cases hok
  next thl plen hl =>
    obtain ⟨hthl, hsum⟩ := lengths_eq_ok hl
    obtain ⟨hm, hle⟩ := bigStepS7_eq_ok hok
    omega

/-- Behind the header the NTB takes what `BlockLength` leaves of it, whatever the table's length is (R77,
R106). -/
theorem bigStepS4_eq_ok {rx : Bytes} {m : Nat} {h : Nth} {l : U16} {slices : List Bytes}
    (hok : bigStepS4 rx h l = (.ok slices, m)) :
    m ≤ rx.length ∧ m + h.hlen.toNat = h.blen.toNat + 12 := by
  unfold bigStepS4 at hok
  split at hok
  · cases hok
  next c hc =>
    have hl := entryCount_eq_ok_iff.mp hc
    split at hok
    · cases hok
    · obtain ⟨hm, hle⟩ := bigStepS6_eq_ok hok
      omega

/-- A decoded NTB got past both signatures. -/
theorem bigStep_eq_ok {cfg : Cfg} {rx : Bytes} {m : Nat} {slices : List Bytes}
    (hok : bigStep cfg rx = (.ok slices, m)) :
    bigStepS4 rx (parseNTH (slice rx 0 12)) (normalise cfg (parseNDPF (slice rx 12 8)).lenRaw) =
      (.ok slices, m) := by
  rw [bigStep_eq, bigStepS2] at hok
  split_ifs at hok
  · cases hok
  · cases hok
  · cases hok
  · cases hok
  · exact hok

/-! ### DEC.READ behind an NTB (R131, R132) -/

/-- Behind a release the read is served from the lengthened queue (R132 f, R149). -/
theorem finish_of_released {d e : DecState} {slices : List Bytes} {n max : Nat}
    (h : Released slices n d e) (hpend : d.pend = some max) :
    DecState.goOnAt .s9Serve (fun d => .next d.stepS9) e = .next e.stepS9 ∧
    e.stepS9.answers = d.answers ++ [.ok ((d.q ++ slices.flatten).take max)] ∧
    e.stepS9.q = (d.q ++ slices.flatten).drop max := by
  obtain ⟨hanswers, hq⟩ := serve_of_pend (h.outstanding.trans hpend)
  rw [h.queue, h.answers] at hanswers
  rw [h.queue] at hq
  exact ⟨if_pos h.phase, hanswers, hq⟩

end Sys2Proof.Machine
end

section
/-! The statements about whole NTBs. -/

namespace Sys2Proof.Machine

/-- Settles O36: from each phase on, the rest of DEC.NTB is the rest of the big-step function. -/
theorem decodeNtbIsBigStep : Obligations.DecodeNtbIsBigStep := by
  intro s hverdicts hended hfits
  have hends := decodeNtb_of_streaming (d := s.dec) ⟨hverdicts, hended⟩
  rcases hbig : bigStep s.dec.cfg s.dec.rx.stream with ⟨k | slices, n⟩ <;> rw [hbig] at hends
  · obtain ⟨d, hd, hraised⟩ := hends
    exact ⟨_, exec_decNtb hd, ⟨rfl, rfl, rfl⟩, hraised⟩
  · obtain ⟨d, hd, h⟩ := hends fun c hc => hfits slices n c hbig hc
    exact ⟨_, exec_decNtb hd, ⟨rfl, rfl, rfl⟩, h.phase, h.queue, h.log, h.cursor, h.stream,
      h.status, h.answers, h.outstanding, h.cfg, h.reqs⟩

/-- Settles O37: the structures up to the payload are `HeaderLength` and the table's length too, but for the
12 bytes that the header itself has. -/
theorem successAccounting : Obligations.SuccessAccounting :=
  fun _ _ _ _ hok => bigStepS4_eq_ok (bigStep_eq_ok hok)

/-- Settles O39: one DEC.NTB with the read outstanding, and the delivery where it has released. -/
theorem readDecodesOneNtb : Obligations.ReadDecodesOneNtb := by
  intro s max hidle hshort hverdicts hended hfits
  have hends := decodeNtb_of_streaming (d := { s.dec with pend := some max }) ⟨hverdicts, hended⟩
  have hread := read_of_short hidle hshort
  dsimp only at hends
  rcases hbig : bigStep s.dec.cfg s.dec.rx.stream with ⟨k | slices, n⟩ <;> rw [hbig] at hends
  · obtain ⟨d, hd, hraised⟩ := hends
    have hstays : DecState.goOnAt .s9Serve (fun d => .next d.stepS9) d = .next d :=
      if_neg (by rw [hraised.phase]; nofun)
    rw [hd, andThen, hstays] at hread
    exact ⟨_, exec_decRead hread, ⟨rfl, rfl, rfl⟩, hraised⟩
  · obtain ⟨d, hd, h⟩ := hends fun c hc => hfits slices n c hbig hc
    obtain ⟨hserve, hanswers, hq⟩ := finish_of_released h rfl
    rw [hd, andThen, hserve] at hread
    exact ⟨_, exec_decRead hread, ⟨rfl, rfl, rfl⟩, hanswers, hq,
      d.serve_framesLog.trans h.log, d.serve_rxCount.trans h.cursor,
      (congrArg RxLine.stream d.serve_rx).trans h.stream, d.serve_fault.trans h.status,
      d.serve_phase, d.serve_pend, d.serve_cfg.trans h.cfg, d.serve_reqs.trans h.reqs⟩

end Sys2Proof.Machine
end

section
/-! SUPPORT. What an operation of the Decoder that does not release does to the queue (R49, R148). -/

namespace Sys2Proof.Machine

/-! ### The steps that leave the queue as it is -/

/-- A reading step leaves the queue where what follows the read does: a raise leaves it too (R200). -/
theorem readThen_q {n : Nat} {k : Bytes → DecState → DecState} (hn : 1 ≤ n)
    (hk : ∀ b e, (k b e).q = e.q) (d : DecState) : (readThen n k d).q = d.q := by
  rcases readThen_cases n hn k d with ⟨_, e⟩ | ⟨m, _, _, e⟩ | ⟨x, m, _, _, e⟩ | ⟨v, e⟩ <;> rw [e]
  · exact hk _ _
  · exact DecState.raise_q _ _
  · exact DecState.raise_q _ _

theorem latchNth_q (h : Nth) (d : DecState) : (d.latchNth h).q = d.q := by
  by_cases hsig : h.sig = d.cfg.nthSig
  · rw [latchNth_of_sig hsig]
  · rw [latchNth_of_ne hsig, DecState.raise_q]

theorem latchNdpf_q (p : Ndpf) (d : DecState) : (d.latchNdpf p).q = d.q := by
  by_cases hsig : p.sig = d.cfg.ndpSig
  · rw [latchNdpf_of_sig hsig]
  · rw [latchNdpf_of_ne hsig, DecState.raise_q]

theorem latchEntries_q (t : Bytes) (d : DecState) : (d.latchEntries t).q = d.q := rfl

theorem latchPad_q (b0 b1 : Byte) (d : DecState) : (d.latchPad b0 b1).q = d.q := rfl

theorem latchPayload_q (b : Bytes) (d : DecState) : (d.latchPayload b).q = d.q := rfl

theorem stepS1_q (d : DecState) : d.stepS1.q = d.q :=
  readThen_q (by decide) (fun _ => latchNth_q _) { d with phase := .s1Nth }

theorem stepS2_q (d : DecState) : d.stepS2.q = d.q :=
  readThen_q (by decide) (fun _ => latchNdpf_q _) { d with phase := .s2Ndpf }

theorem stepS4_q (d : DecState) : d.stepS4.q = d.q := by
  cases hc : entryCount d.work.ndpLen with
  | error k => rw [stepS4_of_error hc, DecState.raise_q]
  | ok c =>
    by_cases h0 : c = 0
    · subst h0; rw [stepS4_of_no_entries hc]
    · have hn : 1 ≤ 4 * c := by omega
      rw [stepS4_of_entries hc h0, readThen_q hn latchEntries_q]

theorem stepS5_q (d : DecState) : d.stepS5.q = d.q :=
  readThen_q (by decide) (fun _ => latchPad_q _ _) { d with phase := .s5Pad }

theorem stepS6_q (d : DecState) : d.stepS6.q = d.q := by
  cases hl : lengths d.work.nth.hlen d.work.ndpLen d.work.nth.blen d.work.ent with
  | error k => rw [stepS6_of_error hl, DecState.raise_q]
  | ok r => rw [stepS6_of_ok hl]

theorem stepS7_q (d : DecState) : d.stepS7.q = d.q := by
  by_cases h0 : d.work.plen = 0
  · rw [stepS7_of_no_payload h0, latchPayload_q]
  · rw [stepS7_of_payload h0, readThen_q (Nat.one_le_iff_ne_zero.mpr h0) latchPayload_q]

theorem stepS8_q {d d' : DecState} (h : d.stepS8 = .next d') : d'.q = d.q := by
  rcases stepS8_cases d with ⟨_, e⟩ | ⟨_, k, _, e⟩ | ⟨_, l, _, e⟩ <;> rw [e] at h <;> cases h
  · exact DecState.raise_q _ _
  · rfl

theorem liveEntry_q {d d' : DecState} {e : Entry} (h : d.liveEntry e = .next d') : d'.q = d.q := by
  rcases liveEntry_cases e d with ⟨k, _, r⟩ | ⟨_, _, _, r⟩ | ⟨_, _, _, r⟩ <;> rw [r] at h <;>
    cases h
  · exact DecState.raise_q _ _
  · rfl

/-! ### What is taken from the queue -/

/-- Nothing has entered the queue, and what left it left from its head (R49). -/
def TakesFromHead (d d' : DecState) : Prop := ∃ out, d.q = out ++ d'.q

/-- Nothing has left the queue either. -/
theorem TakesFromHead.of_eq {d d' : DecState} (h : d'.q = d.q) : TakesFromHead d d' := ⟨[], h.symm⟩

/-- The delivery takes from the head (R149). -/
theorem TakesFromHead.stepS9 (d : DecState) : TakesFromHead d d.stepS9 := by
  cases hp : d.pend with
  | none => exact .of_eq (by simp [DecState.stepS9, DecState.serve, hp])
  | some max =>
    have hq : d.stepS9.q = d.q.drop max := (serve_of_pend hp).2
    exact ⟨d.q.take max, by rw [hq, List.take_append_drop]⟩

/-! ### The instructions -/

/-- The instruction is an operation of the Decoder that takes from the queue's head at most. -/
def LiftsTakesFromHead (i : Instr) (s : State) : Prop :=
  ∃ o, exec i s = s.withDec o ∧ ∀ d, o = .next d → TakesFromHead s.dec d

/-- An operation that always ends in a next state. -/
theorem LiftsTakesFromHead.of_next {i : Instr} {s : State} {d : DecState}
    (he : exec i s = s.withDec (.next d)) (h : TakesFromHead s.dec d) : LiftsTakesFromHead i s :=
  ⟨_, he, fun _ e => Host.Outcome.next.inj e ▸ h⟩

/-- PAYLOAD is refused, or takes the bytes it is given (R75, R64). -/
theorem liftsTakesFromHead_payload (bytes : Bytes) (s : State) :
    LiftsTakesFromHead (.payload bytes) s := by
  by_cases hl : bytes.length = s.dec.work.plen
  · by_cases h0 : bytes = []
    · subst h0; exact .of_next (exec_payload_nil hl.symm) (.of_eq rfl)
    · exact .of_next (exec_payload_of_length hl h0) (.of_eq rfl)
  · exact ⟨.refused .outsideDomain, by simp [exec, execPayload, hl], fun _ e => nomatch e⟩

/-- A Decoder instruction other than RESET that does not release takes from the queue's head at most. -/
theorem liftsTakesFromHead_of_decoder (s : State) :
    ∀ i : Instr, agentOf i = some .dec → isReset i = false → i ≠ .decRelease → i ≠ .decNtb →
      (∀ max, i ≠ .decRead max) → LiftsTakesFromHead i s
  | .nth h, _, _, _, _, _ => .of_next rfl (.of_eq (latchNth_q h _))
  | .ndpf p, _, _, _, _, _ => .of_next rfl (.of_eq (latchNdpf_q p _))
  | .entryTerm, _, _, _, _, _ => .of_next rfl (.of_eq rfl)
  | .entryZlen _, _, _, _, _, _ => .of_next rfl (.of_eq rfl)
  | .entryLive idx len, _, _, _, _, _ =>
    ⟨s.dec.liveEntry ⟨idx, len⟩, rfl, fun _ e => .of_eq (liveEntry_q e)⟩
  | .pad _ _, _, _, _, _, _ => .of_next rfl (.of_eq rfl)
  | .payload bytes, _, _, _, _, _ => liftsTakesFromHead_payload bytes s
  | .decS1, _, _, _, _, _ => .of_next rfl (.of_eq (stepS1_q _))
  | .decS2, _, _, _, _, _ => .of_next rfl (.of_eq (stepS2_q _))
  | .decS3, _, _, _, _, _ => .of_next rfl (.of_eq rfl)
  | .decS4, _, _, _, _, _ => .of_next rfl (.of_eq (stepS4_q _))
  | .decS5, _, _, _, _, _ => .of_next rfl (.of_eq (stepS5_q _))
  | .decS6, _, _, _, _, _ => .of_next rfl (.of_eq (stepS6_q _))
  | .decS7, _, _, _, _, _ => .of_next rfl (.of_eq (stepS7_q _))
  | .decS8, _, _, _, _, _ => ⟨s.dec.stepS8, rfl, fun _ e => .of_eq (stepS8_q e)⟩
  | .decS9, _, _, _, _, _ => .of_next rfl (.stepS9 _)
  | .decRelease, _, _, h, _, _ => absurd rfl h
  | .decNtb, _, _, _, h, _ => absurd rfl h
  | .decRead max, _, _, _, _, h => absurd rfl (h max)
  | .reset _ _, _, h, _, _, _ => nomatch h

end Sys2Proof.Machine
end

section
/-! The statement about the queue. -/

namespace Sys2Proof.Machine

/-- Settles O53: RESET empties the queue or leaves the Decoder, every other instruction of the Decoder takes
from the head at most, and the rest leave the Decoder. -/
theorem queueGrowsOnlyByRelease : Obligations.QueueGrowsOnlyByRelease := by
  intro i s t h hrel hntb hread
  by_cases ha : agentOf i = some .dec
  · cases hr : isReset i with
    | false =>
      obtain ⟨o, e, htakes⟩ := liftsTakesFromHead_of_decoder s i ha hr hrel hntb hread
      obtain ⟨d, ho, rfl⟩ := State.withDec_eq_next (e.symm.trans h)
      exact htakes d ho
    | true =>
      cases i <;> cases hr
      rcases execReset_cases h with ⟨rx, rfl, rfl⟩ | ⟨v, rfl, rfl⟩
      · exact ⟨s.dec.q, (List.append_nil _).symm⟩
      · cases ha
  · obtain ⟨-, hdec, -⟩ := directionsIsolated i s t h
    exact TakesFromHead.of_eq (congrArg DecState.q (hdec ha))

end Sys2Proof.Machine
end

section
/-! SUPPORT. ENC.WRITE of an idle Encoder by its outcome (R170, R173, R174), and a run of accepted writes
(R177). -/

namespace Sys2Proof.Machine

/-! ### One write -/

/-- `e` after its transport, which decides `rest` about the later calls, has accepted the write of `frame`
(R170 to R173). -/
def EncState.delivered (frame : Bytes) (rest : List TxVerdict) (e : EncState) : EncState :=
  { e.retire with
    seq := e.seq + 1
    phase := .idle
    txLog := e.txLog ++ [ntb1 e.cfg e.seq frame]
    answers := e.answers ++ [.ok]
    tx := ⟨e.tx.sent ++ ntb1 e.cfg e.seq frame, rest⟩ }

/-- ENC.WRITE on a transport that accepts delivers the NTB (R170, R173). -/
theorem write_of_done {frame : Bytes} {e : EncState} {rest : List TxVerdict} (hp : e.phase = .idle)
    (hl : frame.length ≤ 65505) (hv : e.tx.verdicts = .done :: rest) :
    e.write frame = .next (e.delivered frame rest) :=
  (write_of_idle hp hl).trans (congrArg Host.Outcome.next (txWrite_of_done hv))

/-- ENC.WRITE is refused a frame that is too long (U1). -/
theorem write_of_tooLong {frame : Bytes} {e : EncState} (hp : e.phase = .idle)
    (hl : 65505 < frame.length) : e.write frame = .refused .frameTooLong := by
  have hmax : Config.maxFrame < frame.length := hl
  rw [EncState.write, if_neg (not_not.mpr hp), if_pos hmax]

/-- The counter counts up modulo 65536 (R172). -/
theorem counter_succ_toNat (n : U16) : (n + 1).toNat = (n.toNat + 1) % 65536 := BitVec.toNat_add n 1

/-! ### The stream of NTBs (R177) -/

/-- The NTBs of `frames` are as long as the frames and 30 bytes more each (R118). -/
theorem ntbStream_flatten_length (cfg : Cfg) (n : U16) (frames : List Bytes) :
    (ntbStream cfg n frames).flatten.length = 30 * frames.length + frames.flatten.length := by
  induction frames generalizing n with
  | nil => rfl
  | cons frame frames ih =>
    simp only [ntbStream, List.flatten_cons, List.length_append, List.length_cons, ntb1_length, ih]
    omega

/-! ### Accepted writes, one after the other -/

/-- `e'` is `e` after the writes of `frames` were accepted (R57, R177). -/
structure Sent (frames : List Bytes) (e e' : EncState) : Prop where
  log : e'.txLog = e.txLog ++ ntbStream e.cfg e.seq frames
  sent : e'.tx.sent = e.tx.sent ++ (ntbStream e.cfg e.seq frames).flatten
  counter : e'.seq = e.seq + BitVec.ofNat 16 frames.length
  answers : e'.answers = e.answers ++ List.replicate frames.length .ok

/-- No write changes nothing of these. -/
theorem Sent.refl (e : EncState) : Sent [] e e :=
  ⟨(List.append_nil _).symm, (List.append_nil _).symm, (BitVec.add_zero _).symm,
    (List.append_nil _).symm⟩

/-- The writes behind an accepted one start from its counter and stand behind its NTB (R172, R57). -/
theorem Sent.cons {frame : Bytes} {frames : List Bytes} {e e' : EncState} {rest : List TxVerdict}
    (h : Sent frames (e.delivered frame rest) e') : Sent (frame :: frames) e e' where
  log := h.log.trans (List.append_assoc _ _ _)
  sent := h.sent.trans (List.append_assoc _ _ _)
  counter :=
    calc e'.seq
      _ = e.seq + 1 + BitVec.ofNat 16 frames.length := h.counter
      _ = e.seq + BitVec.ofNat 16 (1 + frames.length) := by
        rw [BitVec.add_assoc, BitVec.ofNat_add]; rfl
      _ = e.seq + BitVec.ofNat 16 (frame :: frames).length := by
        rw [Nat.add_comm, List.length_cons]
  answers := h.answers.trans (List.append_assoc _ _ _)

/-- Which requests were to come has no say in what was sent. -/
theorem Sent.of_popped {frames : List Bytes} {e e' : EncState} {rest : List EncReq}
    (h : Sent frames { e with reqs := rest } e') : Sent frames e e' :=
  ⟨h.log, h.sent, h.counter, h.answers⟩

/-- An idle Encoder takes up its caller's write (R230). -/
theorem move_of_write {e : EncState} {frame : Bytes} {rest : List EncReq} (hp : e.phase = .idle)
    (hr : e.reqs = .write frame :: rest) : e.move = { e with reqs := rest }.write frame := by
  simp only [EncState.move, hp, hr]

/-- A run whose first turn is the Encoder's goes on from that move. -/
theorem run_enc_of_move {s : State} {e' : EncState} (h : s.enc.move = .next e') (m : Nat) :
    Host.Core.run core (m + 1) { s with sched := List.replicate (m + 1) .enc } =
      Host.Core.run core m { s with enc := e', sched := List.replicate m .enc } := by
  apply run_succ_of_next
  rw [step_of_sched_cons (rest := List.replicate m .enc) rfl, turn_enc]
  exact congrArg (State.withEnc _) h

/-- The run that takes up one accepted write after the other (R177; logs 6, 7, 8). -/
theorem run_writes : ∀ (frames : List Bytes) (s : State), s.enc.phase = .idle →
    (∀ f ∈ frames, f.length ≤ 65505) → s.enc.reqs = frames.map .write →
    s.enc.tx.verdicts = List.replicate frames.length .done →
    ∃ e, Host.Core.run core frames.length { s with sched := List.replicate frames.length .enc } =
      .next { s with enc := e, sched := [] } ∧ Sent frames s.enc e
  | [], s, _, _, _, _ => ⟨s.enc, rfl, .refl s.enc⟩
  | frame :: frames, s, hp, hl, hr, hv => by
    obtain ⟨hframe, hframes⟩ := List.forall_mem_cons.mp hl
    let popped : EncState := { s.enc with reqs := frames.map .write }
    let written := popped.delivered frame (List.replicate frames.length .done)
    have hmove : s.enc.move = .next written := (move_of_write hp hr).trans (write_of_done hp hframe hv)
    obtain ⟨e, hrun, hsent⟩ := run_writes frames { s with enc := written } rfl hframes rfl rfl
    have hall : Sent (frame :: frames) popped e := hsent.cons
    exact ⟨e, (run_enc_of_move hmove _).trans hrun, hall.of_popped⟩

end Sys2Proof.Machine
end

section
/-! The statements about ENC.WRITE, the encoding of a stream, and operands outside their domain. -/

namespace Sys2Proof.Machine

/-- Settles O59: the run takes up one write after the other, by induction on the frames. -/
theorem streamLawEncoding : Obligations.StreamLawEncoding := by
  intro s frames hp hl hr hv hsched
  obtain ⟨e, hrun, hsent⟩ := run_writes frames s hp hl hr hv
  rw [← hsched] at hrun
  exact ⟨_, hrun, rfl, hsent.log, hsent.sent, ntbStream_flatten_length _ _ _, hsent.counter,
    hsent.answers⟩

/-- Settles O42: the state behind an accepted write, field by field. -/
theorem writeDelivers : Obligations.WriteDelivers := by
  intro s frame rest hp hl hv
  exact ⟨_, congrArg s.withEnc (write_of_done hp hl hv), ⟨rfl, rfl, rfl⟩, counter_succ_toNat _,
    rfl, rfl, rfl, rfl, rfl, rfl, rfl⟩

/-- Settles O43: the counter has counted before the write that raises. -/
theorem failedWriteRaises : Obligations.FailedWriteRaises := by
  intro s frame x rest hp hl hv
  have hwrite := (write_of_idle hp hl).trans (congrArg Host.Outcome.next (txWrite_of_fail hv))
  exact ⟨_, _, congrArg s.withEnc hwrite, ⟨rfl, rfl, rfl⟩, counter_succ_toNat _,
    rfl, rfl, rfl, rfl, stickEnc_eq _, rfl, rfl⟩

/-- Settles O47: each arm tests the length before it does anything. -/
theorem outsideDomainRefused : Obligations.OutsideDomainRefused := by
  intro s
  exact ⟨fun frame hp hl => congrArg s.withEnc (write_of_tooLong hp hl), fun cfg n frame hl => if_pos hl,
    fun b hb => if_neg hb, fun b hb => if_neg hb, fun t ht => if_neg ht,
    fun es thl plen pay hpay => if_pos hpay, fun b hb => if_pos hb⟩

end Sys2Proof.Machine
end

section
/-! SUPPORT. The Decoder on the stream of the NTBs that the Encoder builds (R117, R177): the transport stays
one that answers from its stream, the big-step function takes one emitted NTB whole, and so does a read. -/

namespace Sys2Proof.Machine

/-! ### A transport that answers from its stream stays one -/

/-- A raise leaves the transport (R200). -/
theorem DecState.Streaming.raise {d : DecState} {k : ErrorKind} (h : d.Streaming) :
    (d.raise k).Streaming := h.of_rx (DecState.raise_rx k d)

/-- A reading step uses up bytes only, where what follows the read leaves the transport. -/
theorem DecState.Streaming.readThen {d : DecState} {n : Nat} {k : Bytes → DecState → DecState}
    (h : d.Streaming) (hk : ∀ b (e : DecState), e.Streaming → (k b e).Streaming) :
    (readThen n k d).Streaming := by
  rw [readThen_of_streaming h]
  split
  · exact hk _ _ (h.rxAdvance _)
  · exact (h.rxAdvance _).raise

theorem DecState.Streaming.latchNth {d : DecState} (h : d.Streaming) (hd : Nth) :
    (d.latchNth hd).Streaming := by
  by_cases hsig : hd.sig = d.cfg.nthSig
  · rw [latchNth_of_sig hsig]; exact h.of_rx rfl
  · rw [latchNth_of_ne hsig]; exact .raise (h.of_rx rfl)

theorem DecState.Streaming.latchNdpf {d : DecState} (h : d.Streaming) (p : Ndpf) :
    (d.latchNdpf p).Streaming := by
  by_cases hsig : p.sig = d.cfg.ndpSig
  · rw [latchNdpf_of_sig hsig]; exact h.of_rx rfl
  · rw [latchNdpf_of_ne hsig]; exact .raise (h.of_rx rfl)

theorem DecState.Streaming.stepS1 {d : DecState} (h : d.Streaming) : d.stepS1.Streaming :=
  .readThen (h.of_rx rfl) fun _ _ he => he.latchNth _

theorem DecState.Streaming.stepS4 {d : DecState} (h : d.Streaming) : d.stepS4.Streaming := by
  cases hc : entryCount d.work.ndpLen with
  | error k => rw [stepS4_of_error hc]; exact .raise (h.of_rx rfl)
  | ok c =>
    by_cases h0 : c = 0
    · subst h0; rw [stepS4_of_no_entries hc]; exact h.of_rx rfl
    · rw [stepS4_of_entries hc h0]; exact .readThen (h.of_rx rfl) fun _ _ he => he.of_rx rfl

theorem DecState.Streaming.stepS6 {d : DecState} (h : d.Streaming) : d.stepS6.Streaming := by
  cases hl : lengths d.work.nth.hlen d.work.ndpLen d.work.nth.blen d.work.ent with
  | error k => rw [stepS6_of_error hl]; exact .raise (h.of_rx rfl)
  | ok r => rw [stepS6_of_ok hl]; exact h.of_rx rfl

theorem DecState.Streaming.stepS7 {d : DecState} (h : d.Streaming) : d.stepS7.Streaming := by
  by_cases h0 : d.work.plen = 0
  · rw [stepS7_of_no_payload h0]; exact h.of_rx rfl
  · rw [stepS7_of_payload h0]; exact .readThen (h.of_rx rfl) fun _ _ he => he.of_rx rfl

theorem DecState.Streaming.stepS8 {d d' : DecState} (h : d.Streaming) (he : d.stepS8 = .next d') :
    d'.Streaming := by
  rcases stepS8_cases d with ⟨_, e⟩ | ⟨_, k, _, e⟩ | ⟨_, l, _, e⟩ <;> rw [e] at he <;> cases he
  · exact .raise (h.of_rx rfl)
  · exact h.of_rx rfl

theorem DecState.Streaming.release {d d' : DecState} (h : d.Streaming) (he : d.release = .next d') :
    d'.Streaming := by
  rcases release_cases d with ⟨_, e⟩ | e <;> rw [e] at he <;> cases he
  exact h.of_rx rfl

/-- The steps of an NTB keep such a transport. -/
theorem DecState.Streaming.keptBySteps : KeptBySteps DecState.Streaming where
  s2 _ _ h := .readThen (h.of_rx rfl) fun _ _ he => he.latchNdpf _
  s3 _ _ h := h.of_rx rfl
  s4 _ _ h := h.stepS4
  s5 _ _ h := .readThen (h.of_rx rfl) fun _ _ he => he.of_rx rfl
  s6 _ _ h := h.stepS6
  s7 _ _ h := h.stepS7
  s8 _ _ _ h he := h.stepS8 he
  release _ _ _ h he := h.release he
  s9 d _ h := h.of_rx d.serve_rx

/-- And so does a whole read (R131). -/
theorem DecState.Streaming.read {d d' : DecState} {max : Nat} (h : d.Streaming)
    (he : d.read max = .next d') : d'.Streaming := by
  have request : DecState.Streaming { d with pend := some max } := h.of_rx rfl
  exact keptBySteps.read (request.of_rx (DecState.serve_rx _)) request.stepS1 he

/-! ### One emitted NTB at the head of the stream (R117, R152) -/

/-- A slice of the first part is there whatever follows. -/
theorem slice_append_left {a : Bytes} {off n : Nat} (h : off + n ≤ a.length) (b : Bytes) :
    slice (a ++ b) off n = slice a off n := by
  rw [slice, List.drop_append_of_le_length (by omega),
    List.take_append_of_le_length (by rw [List.length_drop]; omega), slice]

/-- What the extraction gives of the emitted NTB of `frame` (R114, R117). -/
def emittedSlices (frame : Bytes) : List Bytes := if frame.length = 0 then [] else [frame]

/-- Together that is the frame, an empty one too. -/
theorem emittedSlices_flatten (frame : Bytes) : (emittedSlices frame).flatten = frame := by
  cases frame with
  | nil => rfl
  | cons b frame => exact List.append_nil (b :: frame)

/-- The big-step function takes the whole emitted NTB, and nothing behind it, for the frame. -/
theorem bigStep_ntb1_append {cfg : Cfg} (n : U16) {frame : Bytes} (rest : Bytes)
    (h : frame.length ≤ 65505) (hquirk : normalise cfg 16 = 16) :
    bigStep cfg (ntb1 cfg n frame ++ rest) =
      (.ok (emittedSlices frame), 30 + frame.length) := by
  have hsize : (ntb1 cfg n frame ++ rest).length = 30 + frame.length + rest.length := by
    rw [List.length_append, ntb1_length, Nat.add_comm frame.length]
  have inHead {off m : Nat} (hm : off + m ≤ 30 + frame.length) :
      slice (ntb1 cfg n frame ++ rest) off m = slice (ntb1 cfg n frame) off m :=
    slice_append_left (by rw [ntb1_length]; omega) rest
  obtain ⟨hnth, hndpf, hes, -⟩ := parse_ntb1 cfg n frame
  have hsig : (ntb1Form cfg n frame).nth.sig = cfg.nthSig := rfl
  have hptr : (ntb1Form cfg n frame).ndpf.sig = cfg.ndpSig := rfl
  have hpay : slice (ntb1 cfg n frame) 30 frame.length = frame := by
    rw [slice, drop_ntb1, List.take_length]
  have hcount : entryCount 16 = .ok 2 := rfl
  have hpayload : bigStepS7 (ntb1 cfg n frame ++ rest) 30 (ntb1Form cfg n frame).entries 30
      frame.length = (.ok (emittedSlices frame), 30 + frame.length) := by
    rw [bigStepS7, if_neg (by omega), inHead le_rfl, hpay, extract_ntb1Form cfg n h]
    rfl
  have htable : bigStepS4 (ntb1 cfg n frame ++ rest) (ntb1Form cfg n frame).nth 16 =
      (.ok (emittedSlices frame), 30 + frame.length) := by
    simp only [bigStepS4, hcount]
    rw [if_neg (by omega), inHead (by omega), hes, bigStepS6]
    have hlengths := lengths_ntb1Form cfg n h
    simp only [show (ntb1Form cfg n frame).nth.hlen = 12 from rfl, hlengths]
    exact hpayload
  rw [bigStep_eq, if_neg (by omega), inHead (by omega), hnth, if_neg (not_not.mpr hsig), bigStepS2,
    if_neg (by omega), inHead (by omega), hndpf, if_neg (not_not.mpr hptr)]
  exact (congrArg _ hquirk).trans htable

/-! ### Reads, one after the other -/

/-- `d'` is `d` after reads that got the `frames` one by one and took their NTBs, with `rest` still to come
(R177). -/
structure Yielded (frames : List Bytes) (rest : Bytes) (d d' : DecState) : Prop where
  answers : d'.answers = d.answers ++ frames.map .ok
  cursor : d'.rxCount = d.rxCount + 30 * frames.length + frames.flatten.length
  transport : d'.rx = ⟨rest, true, []⟩
  queue : d'.q = []
  status : d'.fault = d.fault
  phase : d'.phase = .idle
  cfg : d'.cfg = d.cfg

/-- Some reads after others. -/
theorem Yielded.trans {frames frames' : List Bytes} {rest rest' : Bytes} {d d' d'' : DecState}
    (h : Yielded frames rest d d') (h' : Yielded frames' rest' d' d'') :
    Yielded (frames ++ frames') rest' d d'' where
  answers := by rw [h'.answers, h.answers, List.append_assoc, List.map_append]
  cursor := by
    rw [h'.cursor, h.cursor, List.length_append, List.flatten_append, List.length_append]
    omega
  transport := h'.transport
  queue := h'.queue
  status := h'.status.trans h.status
  phase := h'.phase
  cfg := h'.cfg.trans h.cfg

/-- One read of an idle Decoder with an empty queue gets the frame of the emitted NTB in front of it, and
its caller's next requests stay (R131, R117). -/
theorem read_of_emitted {s : State} {n : U16} {frame rest : Bytes} {max : Nat}
    (hp : s.dec.phase = .idle) (hq : s.dec.q = []) (hquirk : normalise s.dec.cfg 16 = 16)
    (hcap : s.dec.cfg.qCapacity = none) (hl : frame.length ≤ 65505) (hle : frame.length ≤ max)
    (hpos : 0 < max) (hrx : s.dec.rx = ⟨ntb1 s.dec.cfg n frame ++ rest, true, []⟩) :
    ∃ d, s.dec.read max = .next d ∧ Yielded [frame] rest s.dec d ∧ d.reqs = s.dec.reqs := by
  have hstream : s.dec.Streaming := ⟨by rw [hrx], by rw [hrx]⟩
  have hempty : s.dec.q.length < max := by rw [hq]; exact hpos
  have hfits : ReleaseFits s.dec := fun _ _ _ _ hc => nomatch hcap.symm.trans hc
  have hbig := bigStep_ntb1_append n rest hl hquirk
  obtain ⟨t, hexec, -, hntb⟩ :=
    readDecodesOneNtb s max hp hempty hstream.verdicts hstream.ended hfits
  obtain ⟨d, hread, rfl⟩ := State.withDec_eq_next hexec
  obtain ⟨hverdicts, hended⟩ := hstream.read hread
  rw [hrx, hbig] at hntb
  simp only [hq, List.nil_append, emittedSlices_flatten, List.take_of_length_le hle,
    List.drop_of_length_le hle] at hntb
  obtain ⟨hanswers, hqueue, -, hcount, hleft, hstatus, hidle, -, hcfg, hreqs⟩ := hntb
  have hntbLen : (ntb1 s.dec.cfg n frame).length = 30 + frame.length := by
    rw [ntb1_length, Nat.add_comm]
  have hrest : d.rx.stream = rest := hleft.trans (List.drop_left' hntbLen)
  refine ⟨d, hread, ⟨hanswers, ?cursor, ?transport, hqueue, hstatus, hidle, hcfg⟩, hreqs⟩
  case cursor => rw [hcount, List.flatten_singleton, List.length_singleton]; omega
  case transport => rw [← hrest, ← hended, ← hverdicts]

/-- An idle Decoder takes up its caller's read (R230). -/
theorem move_of_read {d : DecState} {max : Nat} {rest : List DecReq} (hp : d.phase = .idle)
    (hr : d.reqs = .read max :: rest) : d.move = { d with reqs := rest }.read max := by
  simp only [DecState.move, hp, hr]

/-- Which requests were to come has no say in what was read. -/
theorem Yielded.of_popped {frames : List Bytes} {rest : Bytes} {d d' : DecState} {reqs : List DecReq}
    (h : Yielded frames rest { d with reqs := reqs } d') : Yielded frames rest d d' :=
  ⟨h.answers, h.cursor, h.transport, h.queue, h.status, h.phase, h.cfg⟩

/-- The run that takes up one read after the other, over the stream of as many emitted NTBs (R177; logs 6,
7, 8). -/
theorem run_reads : ∀ (reads : List (Bytes × Nat)) (s : State) (n : U16), s.dec.phase = .idle →
    s.dec.q = [] → normalise s.dec.cfg 16 = 16 → s.dec.cfg.qCapacity = none →
    (∀ r ∈ reads, r.1.length ≤ 65505 ∧ r.1.length ≤ r.2 ∧ 0 < r.2) →
    s.dec.rx = ⟨(ntbStream s.dec.cfg n (reads.map Prod.fst)).flatten, true, []⟩ →
    s.dec.reqs = reads.map (fun r => .read r.2) →
    ∃ d, Host.Core.run core reads.length { s with sched := List.replicate reads.length .dec } =
      .next { s with dec := d, sched := [] } ∧ Yielded (reads.map Prod.fst) [] s.dec d
  | [], s, _, hp, hq, _, _, _, hrx, _ =>
    ⟨s.dec, rfl, ⟨(List.append_nil _).symm, rfl, hrx, hq, rfl, hp, rfl⟩⟩
  | (frame, max) :: reads, s, n, hp, hq, hquirk, hcap, hreads, hrx, hr => by
    obtain ⟨⟨hl, hle, hpos⟩, hreads'⟩ := List.forall_mem_cons.mp hreads
    let popped : DecState := { s.dec with reqs := reads.map fun r => .read r.2 }
    obtain ⟨d, hread, hone, hr'⟩ :=
      read_of_emitted (s := { s with dec := popped }) hp hq hquirk hcap hl hle hpos hrx
    have hmove : s.dec.move = .next d := (move_of_read hp hr).trans hread
    have hcfg : d.cfg = s.dec.cfg := hone.cfg
    obtain ⟨d', hrun, hrest⟩ := run_reads reads { s with dec := d } (n + 1) hone.phase hone.queue
      (hcfg ▸ hquirk) (hcfg ▸ hcap) hreads' (hcfg ▸ hone.transport) hr'
    exact ⟨d', (run_dec_of_move hmove _).trans hrun, (hone.trans hrest).of_popped⟩

end Sys2Proof.Machine
end

section
/-! The statement about the decoding of a stream. -/

namespace Sys2Proof.Machine

/-- Settles O60: the run takes up one read after the other, by induction on the reads; each takes one NTB
and leaves the queue empty. -/
theorem streamLawDecoding : Obligations.StreamLawDecoding := by
  intro s reads n hp hq hquirk hcap hreads hrx hr hsched
  obtain ⟨d, hrun, h⟩ := run_reads reads s n hp hq hquirk hcap hreads hrx hr
  have hanswers : d.answers = s.dec.answers ++ reads.map fun r => .ok r.1 := by
    rw [h.answers, List.map_map]; rfl
  have hcursor := h.cursor
  rw [List.length_map] at hcursor
  rw [← hsched] at hrun
  exact ⟨_, hrun, rfl, hanswers, h.queue, congrArg RxLine.stream h.transport, h.status, hcursor⟩

end Sys2Proof.Machine
end

section
/-! SUPPORT. Where a step of the machine can stop: the outcomes the invariant leaves (R196, R47, U1, U3), from
the single steps of the Decoder up to a turn of either agent. -/

namespace Sys2Proof.Machine

/-- The outcome is no fault, and no refusal but that of a queue overflow or of a frame that is too long. -/
inductive WithinLimits {σ : Type} : Host.Outcome σ Fault Refusal → Prop
  | next (t : σ) : WithinLimits (.next t)
  | overflow : WithinLimits (.refused .queueOverflow)
  | tooLong : WithinLimits (.refused .frameTooLong)

/-- Such an outcome stops for the two named reasons only. -/
theorem WithinLimits.stops {σ : Type} {o : Host.Outcome σ Fault Refusal} (h : WithinLimits o) :
    (∀ f, o ≠ .fault f) ∧ ∀ r, o = .refused r → r = .queueOverflow ∨ r = .frameTooLong := by
  cases h with
  | next t => exact ⟨nofun, nofun⟩
  | overflow => exact ⟨nofun, fun _ e => .inl (Host.Outcome.refused.inj e).symm⟩
  | tooLong => exact ⟨nofun, fun _ e => .inr (Host.Outcome.refused.inj e).symm⟩

/-- Lifting a Decoder's outcome to the machine adds no way to stop. -/
theorem WithinLimits.withDec {o : Host.Outcome DecState Fault Refusal} (h : WithinLimits o) (s : State) :
    WithinLimits (s.withDec o) := by cases h <;> constructor

/-- Lifting an Encoder's outcome to the machine adds no way to stop. -/
theorem WithinLimits.withEnc {o : Host.Outcome EncState Fault Refusal} (h : WithinLimits o) (s : State) :
    WithinLimits (s.withEnc o) := by cases h <;> constructor

/-- A sequence of outcomes stops where one of the two does. -/
theorem WithinLimits.andThen {o : Host.Outcome DecState Fault Refusal}
    {f : DecState → Host.Outcome DecState Fault Refusal} (h : WithinLimits o)
    (hf : ∀ d, o = .next d → WithinLimits (f d)) : WithinLimits (andThen o f) := by
  cases h with
  | next d => exact hf d rfl
  | overflow => exact .overflow
  | tooLong => exact .tooLong

/-- A step that the Decoder has not reached stops nothing. -/
theorem WithinLimits.goOnAt {p : Phase} {f : DecState → Host.Outcome DecState Fault Refusal}
    {d : DecState} (hf : d.phase = p → WithinLimits (f d)) : WithinLimits (d.goOnAt p f) := by
  rcases goOnAt_cases p f d with ⟨hp, e⟩ | ⟨_, e⟩ <;> rw [e]
  · exact hf hp
  · exact .next _

/-! ### The Decoder -/

/-- S8 of a state of the invariant finds the payload in its buffer (R47, R147). -/
theorem stepS8_withinLimits {d : DecState} (h : DecInv d) (hp : d.phase = .s8Extract) :
    WithinLimits d.stepS8 := by
  obtain ⟨hpay, -⟩ := h.work.staged hp
  rcases stepS8_cases d with ⟨hshort, _⟩ | ⟨_, k, _, e⟩ | ⟨_, l, _, e⟩
  · omega
  · exact e ▸ .next _
  · exact e ▸ .next _

/-- A live entry that passes the bounds check lies in the payload buffer (R47, R112). -/
theorem liveEntry_withinLimits {d : DecState} (h : DecInv d) (hp : d.phase = .s8Extract) (e : Entry) :
    WithinLimits (d.liveEntry e) := by
  obtain ⟨hpay, -⟩ := h.work.staged hp
  rcases liveEntry_cases e d with ⟨k, _, r⟩ | ⟨off, hoff, hshort, _⟩ | ⟨off, _, _, r⟩
  · exact r ▸ .next _
  · have hin := translate_ok_le hoff
    omega
  · exact r ▸ .next _

/-- The release stops for an overflow only (R148, U3). -/
theorem release_withinLimits (d : DecState) : WithinLimits d.release := by
  rcases release_cases d with ⟨_, e⟩ | e <;> rw [e]
  · exact .overflow
  · exact .next _

/-- DEC.NTB stays within the limits once step S1 has left a state of the invariant (R134). -/
theorem decodeNtb_withinLimits {d : DecState} (h : DecInv d.stepS1) : WithinLimits d.decodeNtb := by
  have hread : DecInv d.readNtb := decInv_keptBySteps.readNtb h
  exact .andThen (.goOnAt (stepS8_withinLimits hread)) fun d8 _ =>
    .goOnAt fun _ => release_withinLimits d8

/-- DEC.READ of an idle Decoder is the delivery, or one DEC.NTB and the delivery (R131, R132). -/
theorem read_withinLimits {d : DecState} (max : Nat) (h : d.ledger) (hp : d.phase = .idle) :
    WithinLimits (d.read max) := by
  by_cases hq : max ≤ d.q.length
  · exact read_of_queued hp hq ▸ .next _
  · rw [read_of_short hp (Nat.lt_of_not_le hq)]
    have started : DecInv { d with pend := some max, phase := .s1Nth } :=
      .of_busy h nofun nofun ⟨nofun, nofun, nofun, nofun, nofun, nofun⟩
    have hntb := decodeNtb_withinLimits (d := { d with pend := some max }) (stepS1_inv started)
    exact hntb.andThen fun d9 _ => .goOnAt fun _ => .next _

/-- Every move of a Decoder that satisfies its invariant stays within the limits: only the
traversal, the release and the read that comes to them can stop at all. -/
theorem DecInv.move_withinLimits {d : DecState} (h : DecInv d) : WithinLimits d.move := by
  unfold DecState.move
  cases hp : d.phase <;> dsimp only
  case idle =>
    rcases d.reqs with _ | ⟨max | ⟨cfg, rx⟩, rest⟩
    · exact .next _
    · exact read_withinLimits max h.ledger rfl
    · exact .next _
  case s8Extract =>
    cases d.work.ent[d.work.cursor]? with
    | none => exact release_withinLimits d
    | some e =>
      dsimp only
      split
      · exact .next _
      · exact liveEntry_withinLimits h hp e
  all_goals exact .next _

/-! ### The Encoder -/

/-- ENC.WRITE of an idle Encoder stops for a frame that is too long only (R170, U1). -/
theorem write_withinLimits {e : EncState} (frame : Bytes) (hp : e.phase = .idle) :
    WithinLimits (e.write frame) := by
  rw [EncState.write, if_neg (not_not.mpr hp)]
  split
  · exact .tooLong
  · exact .next _

/-- A buffer that holds an NTB of the emitted form holds its whole head (R81). -/
theorem holdsForm_of_ntb1 {e : EncState} {n : U16} {frame : Bytes} (h : e.txbuf = ntb1 e.cfg n frame) :
    e.holdsForm = true := by
  have hhead : e.txbuf.take 30 = ntb1Head e.cfg n (BitVec.ofNat 16 (frame.length + 30))
      (BitVec.ofNat 16 frame.length) := by
    rw [h, ntb1, List.take_left' (ntb1Head_length _ _ _ _)]
  have hlen : 30 ≤ e.txbuf.length := by rw [h, ntb1_length]; omega
  rw [EncState.holdsForm, hhead, isNtb1Head_ntb1Head, decide_eq_true hlen, Bool.and_self]

/-- Every move of an Encoder that satisfies its invariant stays within the limits: a blocked one
holds the NTB it built. -/
theorem EncInv.move_withinLimits {e : EncState} (h : EncInv e) : WithinLimits e.move := by
  unfold EncState.move
  cases hp : e.phase <;> dsimp only
  case idle =>
    rcases e.reqs with _ | ⟨frame | ⟨cfg, v⟩, rest⟩
    · exact .next _
    · exact write_withinLimits frame rfl
    · exact .next _
  case writing =>
    obtain ⟨frame, _, hbuf⟩ := h.buffer hp
    rw [if_pos (holdsForm_of_ntb1 hbuf)]
    exact .next _

/-! ### A turn -/

/-- A turn of either agent stays within the limits, as that agent's move does (R29). -/
theorem turn_withinLimits {s : State} (h : Invariant s) (a : Agent) :
    WithinLimits (turn a s) := by
  cases a with
  | dec => rw [turn_dec]; exact h.dec.move_withinLimits.withDec s
  | enc => rw [turn_enc]; exact h.enc.move_withinLimits.withEnc s

end Sys2Proof.Machine
end

section
/-! The statement about where a step can stop. -/

namespace Sys2Proof.Machine

/-- Settles O56: the step is a turn of the scheduled agent, or nothing. -/
theorem invariantSafe : Obligations.InvariantSafe := by
  intro s h
  have hstep : WithinLimits (step s) := by
    cases hs : s.sched with
    | nil => exact step_of_sched_nil hs ▸ .next s
    | cons a rest =>
      have h' : Invariant { s with sched := rest } := ⟨h.dec, h.enc⟩
      rw [step_of_sched_cons hs]
      exact turn_withinLimits h' a
  exact hstep.stops

end Sys2Proof.Machine
end

section
/-! SUPPORT. Errors met after bytes were consumed: what a raise comes to then (R200, R41), the reading
steps whose call is answered with `Short` or `Fail` (R194, R197), and the structures that S1 and S2 reject
(R192, R193). -/

namespace Sys2Proof.Machine

/-- Bytes consumed before the bytes of a raise count with them (R15, R200): a raise tells nothing from
the working registers, the phase or the free values. -/
theorem Raised.after_consumed {kind : ErrorKind} {m n draws : Nat} {w : DecWork} {p : Phase}
    {d d' : DecState}
    (h : Raised kind n { d.rxAdvance m with work := w, phase := p, draws := draws } d') :
    Raised kind (m + n) d d' where
  queue := h.queue
  log := h.log
  cursor := by rw [h.cursor, DecState.rxAdvance_rxCount, Nat.add_assoc]
  stream := by rw [h.stream, DecState.rxAdvance_stream, List.drop_drop]
  ended := h.ended
  status := h.status
  phase := h.phase
  stage := h.stage
  outstanding := h.outstanding
  result := h.result
  cfg := h.cfg
  reqs := h.reqs

/-- A raise right after `m` bytes were consumed (R200). -/
theorem raised_of_consumed (kind : ErrorKind) (m draws : Nat) (w : DecWork) (p : Phase) (d : DecState) :
    Raised kind m d
      (DecState.raise kind { d.rxAdvance m with work := w, phase := p, draws := draws }) :=
  (raised_raise kind p { d.rxAdvance m with work := w, phase := p, draws := draws }).after_consumed

/-! ### The answers that raise -/

/-- A call that the transport decides to cut short (R41 b). -/
theorem readThen_of_short {n j : Nat} {d : DecState} {rest : List RxVerdict}
    (h : d.rx.verdicts = .short j :: rest) (k : Bytes → DecState → DecState) :
    readThen n k d =
      (d.rxAdvance (min (min j (n - 1)) d.rx.stream.length)).raise .truncatedTransfer := by
  simp only [readThen, rxRead, h, List.length_take]

/-- A call that finds too few bytes before the end of the stream takes what is left (R41 b, R194). -/
theorem readThen_of_ended {n : Nat} {d : DecState} (hs : Serving d.rx) (he : d.rx.ended = true)
    (hn : d.rx.stream.length < n) (k : Bytes → DecState → DecState) :
    readThen n k d = (d.rxAdvance d.rx.stream.length).raise .truncatedTransfer := by
  rw [readThen, rxRead_of_serving hs]
  rcases rxServe_cases n d with ⟨hle, _⟩ | ⟨_, _, e⟩ | ⟨_, hopen, _⟩
  · omega
  · rw [e]
  · cases he.symm.trans hopen

/-- A call that fails has consumed some of what it asked for (R41 c, U6). -/
theorem readThen_of_fail {n : Nat} {e : TransportErr} {d : DecState} {rest : List RxVerdict}
    (h : d.rx.verdicts = .fail e :: rest) (k : Bytes → DecState → DecState) :
    readThen n k d = DecState.raise (.transportError e)
      { d.rxAdvance (failedBytes n d) with draws := d.draws + 1 } := by
  simp only [readThen, rxRead, h]

/-- A reading step whose one call raises after `m` bytes. -/
theorem exec_of_raising_read {s : State} {i : Instr} {n m draws : Nat} {kind : ErrorKind}
    (hr : readsOf s.dec i = some n)
    (hraise : ∀ p k, readThen n k (s.dec.calling i p n) =
      DecState.raise kind { (s.dec.calling i p n).rxAdvance m with draws := draws }) :
    ∃ t, exec i s = .next t ∧ OnlyDec s t ∧ Raised kind m s.dec t.dec := by
  obtain ⟨p, k, -, hexec⟩ := exec_of_readsOf s hr
  rw [hraise p k] at hexec
  exact ⟨_, hexec, ⟨rfl, rfl, rfl⟩, raised_of_consumed kind m draws _ p s.dec⟩

/-! ### The structures with another signature -/

/-- NTH with another signature, taken as a structure (R192). -/
theorem exec_nth_of_ne {s : State} {h : Nth} (hsig : h.sig ≠ s.dec.cfg.nthSig) :
    ∃ t, exec (.nth h) s = .next t ∧ OnlyDec s t ∧ Raised .malformedHeader 12 s.dec t.dec := by
  have hraise := latchNth_of_ne (d := { s.dec with phase := .s1Nth }.rxAdvance 12) hsig
  exact ⟨_, congrArg (fun d => s.withDec (.next d)) hraise, ⟨rfl, rfl, rfl⟩,
    raised_of_consumed .malformedHeader 12 s.dec.draws _ .s1Nth s.dec⟩

/-- NDPF with another signature, taken as a structure (R193). -/
theorem exec_ndpf_of_ne {s : State} {p : Ndpf} (hsig : p.sig ≠ s.dec.cfg.ndpSig) :
    ∃ t, exec (.ndpf p) s = .next t ∧ OnlyDec s t ∧
      Raised .malformedDatagramPointer 8 s.dec t.dec := by
  have hraise := latchNdpf_of_ne (d := { s.dec with phase := .s2Ndpf }.rxAdvance 8) hsig
  exact ⟨_, congrArg (fun d => s.withDec (.next d)) hraise, ⟨rfl, rfl, rfl⟩,
    raised_of_consumed .malformedDatagramPointer 8 s.dec.draws _ .s2Ndpf s.dec⟩

end Sys2Proof.Machine
end

section
/-! The statements about the errors met while reading. -/

namespace Sys2Proof.Machine

/-- Settles O26: the step is its one call, and that call is answered with `Short`. -/
theorem shortReadTruncates : Obligations.ShortReadTruncates := by
  refine fun s i n hr => ⟨fun j rest hv => ?_, fun hs he hn => ?_⟩
  · exact exec_of_raising_read (draws := s.dec.draws) hr fun p k =>
      readThen_of_short (d := s.dec.calling i p n) hv k
  · exact exec_of_raising_read (draws := s.dec.draws) hr fun p k =>
      readThen_of_ended (d := s.dec.calling i p n) hs he hn k

/-- Settles O27: the step is its one call, and that call is answered with `Fail`. -/
theorem failedReadRaises : Obligations.FailedReadRaises := by
  intro s i n e rest hr hv
  obtain ⟨t, hexec, honly, hraised⟩ := exec_of_raising_read (m := failedBytes n s.dec)
    (draws := s.dec.draws + 1) (kind := .transportError e) hr
    fun p k => readThen_of_fail (n := n) (d := s.dec.calling i p n) hv k
  obtain ⟨hle, -⟩ := failedBytes_le n s.dec
  exact ⟨t, _, hexec, honly, hle, hraised⟩

/-- Settles O15: S1 with its bytes at hand is the structure it reads. -/
theorem headerRejected : Obligations.HeaderRejected :=
  ⟨fun _ _ hsig => exec_nth_of_ne hsig, fun _ _ hb hsig => exec_nth_of_peek hb ▸ exec_nth_of_ne hsig⟩

/-- Settles O17: S2 with its bytes at hand is the structure it reads; behind an accepted NTH its 12 bytes
count with the 8. -/
theorem pointerRejected : Obligations.PointerRejected := by
  refine ⟨fun _ _ hsig => exec_ndpf_of_ne hsig,
    fun _ _ hb hsig => exec_ndpf_of_peek hb ▸ exec_ndpf_of_ne hsig, fun s h p hh hp => ?_⟩
  obtain ⟨t, hnth, ⟨henc, hsched, hunit⟩, ht⟩ := headerAccepted s h hh
  have hp' : p.sig ≠ t.dec.cfg.ndpSig := by rw [ht]; exact hp
  obtain ⟨u, hndpf, ⟨henc', hsched', hunit'⟩, hraised⟩ := exec_ndpf_of_ne hp'
  rw [ht] at hraised
  exact ⟨t, u, hnth, hndpf,
    ⟨henc'.trans henc, hsched'.trans hsched, hunit'.trans hunit⟩,
    Raised.after_consumed (m := 12) (draws := s.dec.draws) hraised⟩

end Sys2Proof.Machine
end

section
/-! SUPPORT. A step of an agent that has no structure at hand (R133, R230), and what RESET and a request come
to in each phase of their direction (R230, R231, R240). -/

namespace Sys2Proof.Machine

/-! ### The scheduled agent's move -/

/-- What the scheduled agent fetches is what the step runs. -/
theorem step_of_run {s t : State} {a : Agent} {rest : List Agent} {i : Instr}
    (hs : s.sched = a :: rest) (hf : fetch a { s with sched := rest } = .run i t) :
    step s = exec i t := by
  rw [step_of_sched_cons hs, turn, hf]

/-- An agent with nothing to do uses up its place in the schedule and no more. -/
theorem step_of_hold {s : State} {a : Agent} {rest : List Agent} (hs : s.sched = a :: rest)
    (hf : fetch a { s with sched := rest } = .hold) : step s = .next { s with sched := rest } := by
  rw [step_of_sched_cons hs, turn, hf]

/-- Where RX does not give a structure's bytes, the step that waits for them runs (R78, R133). -/
theorem fetchDec_of_absent {s : State} {pos : Pos} {i : Instr} (hf : fetchDec s = fetchRx pos i s)
    (hb : rxPeek pos.size s.dec = none) : fetchDec s = .run i s := by
  simp only [hf, fetchRx, hb]

/-- In S7 the step itself runs where no payload is asked for or RX does not give it (R64, R75). -/
theorem fetchDec_of_s7 {s : State} (hp : s.dec.phase = .s7Pay)
    (h : s.dec.work.plen = 0 ∨ rxPeek s.dec.work.plen s.dec = none) :
    fetchDec s = .run .decS7 s := by
  by_cases h0 : s.dec.work.plen = 0
  · simp only [fetchDec, hp, h0, if_true]
  · exact fetchDec_of_absent (pos := .payload s.dec.work.plen)
      (by simp only [fetchDec, hp, if_neg h0]) (h.resolve_left h0)

/-- Behind the last entry of the table stands the release (R147, R148). -/
theorem fetchDec_of_past {s : State} (hp : s.dec.phase = .s8Extract)
    (h : s.dec.work.ent.length ≤ s.dec.work.cursor) : fetchDec s = .run .decRelease s := by
  simp only [fetchDec, hp, fetchEntry, List.getElem?_eq_none h]

/-! ### Requests and RESET -/

/-- A Decoder with an operation outstanding takes no further read (U8, R240). -/
theorem read_of_busy {d : DecState} (h : d.phase ≠ .idle) (max : Nat) :
    d.read max = .refused .requestWhileBusy := if_pos h

/-- An Encoder with an operation outstanding takes no further write (U8, R240). -/
theorem write_of_busy {e : EncState} (h : e.phase ≠ .idle) (frame : Bytes) :
    e.write frame = .refused .requestWhileBusy := if_pos h

/-- RESET of an idle Decoder creates it anew (R230). -/
theorem exec_reset_dec_of_idle {s : State} (h : s.dec.phase = .idle) (rx : RxLine) (cfg : Cfg) :
    exec (.reset (.dec rx) cfg) s = .next { s with dec := s.dec.create cfg rx } :=
  if_neg (not_not.mpr h)

/-- RESET of a busy Decoder is refused (U9, R231). -/
theorem exec_reset_dec_of_busy {s : State} (h : s.dec.phase ≠ .idle) (rx : RxLine) (cfg : Cfg) :
    exec (.reset (.dec rx) cfg) s = .refused .resetWhileBusy := if_pos h

/-- RESET of an idle Encoder creates it anew (R230). -/
theorem exec_reset_enc_of_idle {s : State} (h : s.enc.phase = .idle) (v : List TxVerdict) (cfg : Cfg) :
    exec (.reset (.enc v) cfg) s = .next { s with enc := s.enc.create cfg v } :=
  if_neg (not_not.mpr h)

/-- RESET of a busy Encoder is refused (U9, R231). -/
theorem exec_reset_enc_of_busy {s : State} (h : s.enc.phase ≠ .idle) (v : List TxVerdict) (cfg : Cfg) :
    exec (.reset (.enc v) cfg) s = .refused .resetWhileBusy := if_pos h

end Sys2Proof.Machine
end

section
/-! The statements about RESET and about what a step runs where no structure is at hand. -/

namespace Sys2Proof.Machine

/-- Settles O41: each of the four looks at its own direction's phase first. -/
theorem outstandingOperationsRefuse : Obligations.OutstandingOperationsRefuse := by
  refine ⟨fun s max h => ?_, fun s frame h => ?_, fun _ rx cfg h => exec_reset_dec_of_busy h rx cfg,
    fun _ v cfg h => exec_reset_enc_of_busy h v cfg⟩
  · rw [exec, execDecRead, read_of_busy h, State.withDec_refused]
  · rw [exec, execEncWrite, write_of_busy h, State.withEnc_refused]

/-- Settles O45: the values after RESET are those that `create` gives, the other direction is untouched. -/
theorem resetCreatesOneDirection : Obligations.ResetCreatesOneDirection := by
  refine ⟨fun s rx cfg h => ⟨_, exec_reset_dec_of_idle h rx cfg, ⟨rfl, rfl, rfl⟩, ?_⟩,
    fun s v cfg h => ⟨_, exec_reset_enc_of_idle h v cfg, ⟨rfl, rfl, rfl⟩, ?_⟩⟩
  · simp
  · simp

/-- Settles O58: the step runs what the agent fetches; an idle agent fetches from its caller's list, a
Decoder in a phase fetches the phase's step. -/
theorem stepRunsRequestsAndPhases : Obligations.StepRunsRequestsAndPhases := by
  refine ⟨fun s rest hs hp => ⟨fun hr => ?_, fun max reqs hr => ?_, fun cfg rx reqs hr => ?_⟩,
    fun s rest hs hp => ⟨fun hr => ?_, fun frame reqs hr => ?_, fun cfg v reqs hr => ?_⟩,
    fun s rest hs => ⟨fun hp hb => ?s1, fun hp hb => ?s2, fun hp => ?s3, fun hp => ?s4,
      fun hp hb => ?s5, fun hp => ?s6, fun hp hb => ?s7, fun hp hc => ?s8, fun hp => ?s9⟩⟩
  · exact step_of_hold hs (by simp only [fetch, fetchDec, hp, hr])
  · exact step_of_run hs (by simp only [fetch, fetchDec, hp, hr])
  · exact step_of_run hs (by simp only [fetch, fetchDec, hp, hr])
  · exact step_of_hold hs (by simp only [fetch, fetchEnc, hp, hr])
  · exact step_of_run hs (by simp only [fetch, fetchEnc, hp, hr])
  · exact step_of_run hs (by simp only [fetch, fetchEnc, hp, hr])
  case s1 =>
    exact step_of_run hs (fetchDec_of_absent (pos := .nth) (by simp only [fetchDec, hp]) hb)
  case s2 =>
    exact step_of_run hs (fetchDec_of_absent (pos := .ndpf) (by simp only [fetchDec, hp]) hb)
  case s3 => exact step_of_run hs (by simp only [fetch, fetchDec, hp])
  case s4 => exact step_of_run hs (by simp only [fetch, fetchDec, hp])
  case s5 =>
    exact step_of_run hs (fetchDec_of_absent (pos := .pad) (by simp only [fetchDec, hp]) hb)
  case s6 => exact step_of_run hs (by simp only [fetch, fetchDec, hp])
  case s7 => exact step_of_run hs (fetchDec_of_s7 hp hb)
  case s8 => exact step_of_run hs (fetchDec_of_past hp hc)
  case s9 => exact step_of_run hs (by simp only [fetch, fetchDec, hp])

end Sys2Proof.Machine
end
